-- ==== Sys2Proof/Word.lean ====
section
/-!
DEFINITION. The word types of the HT48R062/HT48C062 (00_scope.md R7, R11): every value is an unsigned
bit vector of a stated width, and there is no signed type in the machine.
-/
namespace Sys2Proof

/-- A data byte: the width of the data path, the ALU and the accumulator (R7, XLEN). -/
abbrev Byte := BitVec 8

/-- A program word (R7, INSN_WIDTH). -/
abbrev Word14 := BitVec 14

/-- A program-memory word address (R7, PC_WIDTH). -/
abbrev ProgAddr := BitVec 10

/-- A data-memory address, direct or in MP (R7, MP_WIDTH; R93 for the field `m`, D2). Log 3. -/
abbrev DataAddr := BitVec 7

/-- A bit number 0..7 (R93, the field `i`). -/
abbrev BitIndex := BitVec 3

end Sys2Proof
end

