-- ==== Sys2Proof/Syntax.lean ====
section
/-!
DEFINITION. The instruction terms of the HT48R062/HT48C062 (30_encoding.md R98): one constructor per row
of the opcode table, in the table's order, with the operands of its format (R91, R93). An operand's type
is its field's width, so every term's operands are in the ranges of R93.
-/
namespace Sys2Proof

/-- The 63 instructions (30_encoding.md R98). `m` is a data-memory address (00H selects indirect
addressing, R62), `x` an immediate byte, `i` a bit number, `addr` a program-memory word address (R93). -/
inductive Instr where
  /-- `NOP` (R240), format N. -/
  | nop
  /-- `CLR WDT` (R243), format N. -/
  | clrWdt
  /-- `CLR WDT1` (R244), format N. -/
  | clrWdt1
  /-- `CLR WDT2` (R245), format N. -/
  | clrWdt2
  /-- `HALT` (R248), format N. -/
  | halt
  /-- `RET` (R211), format N. -/
  | ret
  /-- `RETI` (R213), format N. -/
  | reti
  /-- `ADD A,[m]` (R113), format M. -/
  | addA (m : DataAddr)
  /-- `ADDM A,[m]` (R114), format M. -/
  | addM (m : DataAddr)
  /-- `ADC A,[m]` (R116), format M. -/
  | adcA (m : DataAddr)
  /-- `ADCM A,[m]` (R117), format M. -/
  | adcM (m : DataAddr)
  /-- `SUB A,[m]` (R119), format M. -/
  | subA (m : DataAddr)
  /-- `SUBM A,[m]` (R120), format M. -/
  | subM (m : DataAddr)
  /-- `SBC A,[m]` (R121), format M. -/
  | sbcA (m : DataAddr)
  /-- `SBCM A,[m]` (R122), format M. -/
  | sbcM (m : DataAddr)
  /-- `DAA [m]` (R123), format M. -/
  | daa (m : DataAddr)
  /-- `AND A,[m]` (R131), format M. -/
  | andA (m : DataAddr)
  /-- `OR A,[m]` (R132), format M. -/
  | orA (m : DataAddr)
  /-- `XOR A,[m]` (R133), format M. -/
  | xorA (m : DataAddr)
  /-- `ANDM A,[m]` (R134), format M. -/
  | andM (m : DataAddr)
  /-- `ORM A,[m]` (R135), format M. -/
  | orM (m : DataAddr)
  /-- `XORM A,[m]` (R136), format M. -/
  | xorM (m : DataAddr)
  /-- `CPL [m]` (R140), format M. -/
  | cpl (m : DataAddr)
  /-- `CPLA [m]` (R141), format M. -/
  | cpla (m : DataAddr)
  /-- `INCA [m]` (R150), format M. -/
  | inca (m : DataAddr)
  /-- `INC [m]` (R151), format M. -/
  | inc (m : DataAddr)
  /-- `DECA [m]` (R152), format M. -/
  | deca (m : DataAddr)
  /-- `DEC [m]` (R153), format M. -/
  | dec (m : DataAddr)
  /-- `RRA [m]` (R160), format M. -/
  | rra (m : DataAddr)
  /-- `RR [m]` (R161), format M. -/
  | rr (m : DataAddr)
  /-- `RRCA [m]` (R162), format M. -/
  | rrca (m : DataAddr)
  /-- `RRC [m]` (R163), format M. -/
  | rrc (m : DataAddr)
  /-- `RLA [m]` (R164), format M. -/
  | rla (m : DataAddr)
  /-- `RL [m]` (R165), format M. -/
  | rl (m : DataAddr)
  /-- `RLCA [m]` (R166), format M. -/
  | rlca (m : DataAddr)
  /-- `RLC [m]` (R167), format M. -/
  | rlc (m : DataAddr)
  /-- `MOV A,[m]` (R180), format M. -/
  | movA (m : DataAddr)
  /-- `MOV [m],A` (R181), format M. -/
  | movM (m : DataAddr)
  /-- `SZ [m]` (R202), format M. -/
  | sz (m : DataAddr)
  /-- `SZA [m]` (R203), format M. -/
  | sza (m : DataAddr)
  /-- `SIZ [m]` (R206), format M. -/
  | siz (m : DataAddr)
  /-- `SDZ [m]` (R207), format M. -/
  | sdz (m : DataAddr)
  /-- `SIZA [m]` (R208), format M. -/
  | siza (m : DataAddr)
  /-- `SDZA [m]` (R209), format M. -/
  | sdza (m : DataAddr)
  /-- `TABRDC [m]` (R231), format M. -/
  | tabrdc (m : DataAddr)
  /-- `TABRDL [m]` (R232), format M. -/
  | tabrdl (m : DataAddr)
  /-- `CLR [m]` (R241), format M. -/
  | clr (m : DataAddr)
  /-- `SET [m]` (R242), format M. -/
  | set (m : DataAddr)
  /-- `SWAP [m]` (R246), format M. -/
  | swap (m : DataAddr)
  /-- `SWAPA [m]` (R247), format M. -/
  | swapa (m : DataAddr)
  /-- `ADD A,x` (R115), format I. -/
  | addI (x : Byte)
  /-- `SUB A,x` (R118), format I. -/
  | subI (x : Byte)
  /-- `AND A,x` (R137), format I. -/
  | andI (x : Byte)
  /-- `OR A,x` (R138), format I. -/
  | orI (x : Byte)
  /-- `XOR A,x` (R139), format I. -/
  | xorI (x : Byte)
  /-- `MOV A,x` (R182), format I. -/
  | movI (x : Byte)
  /-- `RET A,x` (R212), format I. -/
  | retA (x : Byte)
  /-- `CLR [m].i` (R190), format B. -/
  | clrBit (m : DataAddr) (i : BitIndex)
  /-- `SET [m].i` (R191), format B. -/
  | setBit (m : DataAddr) (i : BitIndex)
  /-- `SZ [m].i` (R204), format B. -/
  | szBit (m : DataAddr) (i : BitIndex)
  /-- `SNZ [m].i` (R205), format B. -/
  | snzBit (m : DataAddr) (i : BitIndex)
  /-- `JMP addr` (R201), format A. -/
  | jmp (addr : ProgAddr)
  /-- `CALL addr` (R210), format A. -/
  | call (addr : ProgAddr)
deriving DecidableEq, Repr, Inhabited

/-- The five operand formats (R91). -/
inductive Format where
  | n | m | i | b | a
deriving DecidableEq, Repr

/-- The format of an instruction (R91, R98). -/
def Instr.format : Instr → Format
  | .nop => .n
  | .clrWdt => .n
  | .clrWdt1 => .n
  | .clrWdt2 => .n
  | .halt => .n
  | .ret => .n
  | .reti => .n
  | .addA _ => .m
  | .addM _ => .m
  | .adcA _ => .m
  | .adcM _ => .m
  | .subA _ => .m
  | .subM _ => .m
  | .sbcA _ => .m
  | .sbcM _ => .m
  | .daa _ => .m
  | .andA _ => .m
  | .orA _ => .m
  | .xorA _ => .m
  | .andM _ => .m
  | .orM _ => .m
  | .xorM _ => .m
  | .cpl _ => .m
  | .cpla _ => .m
  | .inca _ => .m
  | .inc _ => .m
  | .deca _ => .m
  | .dec _ => .m
  | .rra _ => .m
  | .rr _ => .m
  | .rrca _ => .m
  | .rrc _ => .m
  | .rla _ => .m
  | .rl _ => .m
  | .rlca _ => .m
  | .rlc _ => .m
  | .movA _ => .m
  | .movM _ => .m
  | .sz _ => .m
  | .sza _ => .m
  | .siz _ => .m
  | .sdz _ => .m
  | .siza _ => .m
  | .sdza _ => .m
  | .tabrdc _ => .m
  | .tabrdl _ => .m
  | .clr _ => .m
  | .set _ => .m
  | .swap _ => .m
  | .swapa _ => .m
  | .addI _ => .i
  | .subI _ => .i
  | .andI _ => .i
  | .orI _ => .i
  | .xorI _ => .i
  | .movI _ => .i
  | .retA _ => .i
  | .clrBit _ _ => .b
  | .setBit _ _ => .b
  | .szBit _ _ => .b
  | .snzBit _ _ => .b
  | .jmp _ => .a
  | .call _ => .a

/-- How many bits of the word the operand fields of a format take (R91); the other bits of the 14 are
the opcode's. -/
def Format.operandBits : Format → Nat
  | .n => 0
  | .m => 7
  | .i => 8
  | .b => 10
  | .a => 10

end Sys2Proof
end

