-- ==== Sys2Proof/WellFormed.lean ====
section
/-!
DEFINITION. The constraints on the open argument `DECODE` (30_encoding.md R94), as checks on an encoding.
An instruction term needs no check of its own: its operands' types are their fields' widths (R93), which
is R94 (a).
-/
namespace Sys2Proof

/-- DECODE as data: the words that spell an instruction, each with its term (30_encoding.md R94). Any
partial function on the 14-bit words is such a list. DESIGN CHOICE, log 1. -/
abbrev Encoding := List (Word14 × Instr)

/-- R94 (c): in a word of JMP or CALL, bits 9..0 are the target (R91, format A). -/
def Encoding.addressInPlace (r : Word14 × Instr) : Bool :=
  match r.2 with
  | .jmp addr => r.1.setWidth 10 == addr
  | .call addr => r.1.setWidth 10 == addr
  | _ => true

/-- R94 (b): two rows name the same word exactly when they name the same term. -/
def Encoding.oneToOne (enc : Encoding) : Bool :=
  enc.all fun r => enc.all fun q => (r.1 == q.1) == (r.2 == q.2)

/-- The checks of R94 on the rows an encoding lists. -/
def Encoding.wf (enc : Encoding) : Bool :=
  enc.all Encoding.addressInPlace && enc.oneToOne

/-- R94 (b): every term has a word. -/
def Encoding.complete (enc : Encoding) : Prop :=
  ∀ i : Instr, ∃ w : Word14, (w, i) ∈ enc

/-- R94: the constraints on DECODE. Its range (a) and its totality (d) hold by type. -/
structure Encoding.lawful (enc : Encoding) : Prop where
  wf : enc.wf = true
  complete : enc.complete

end Sys2Proof
end

