-- ==== Sys2Proof/SampleEncoding.lean ====
section
/-!
DEFINITION. An encoding that meets R94 exists, so that the free constant `Config.decodeTable` can be one of
those that do. The spec gives no opcode bit pattern (30_encoding.md R94, decision D1): this numbering is NOT
the chip's and nothing is known of the chip's from it. It only has every field in a word of 14 bits (R92) and
the target of JMP and CALL in bits 9..0 (R91). Log 1.
-/
namespace Sys2Proof

/-- A sample word for every term. -/
def sampleWord : Instr → Word14
  | .nop => 15360#14
  | .clrWdt => 15361#14
  | .clrWdt1 => 15362#14
  | .clrWdt2 => 15363#14
  | .halt => 15364#14
  | .ret => 15365#14
  | .reti => 15366#14
  | .addA m => 64#7 ++ m
  | .addM m => 65#7 ++ m
  | .adcA m => 66#7 ++ m
  | .adcM m => 67#7 ++ m
  | .subA m => 68#7 ++ m
  | .subM m => 69#7 ++ m
  | .sbcA m => 70#7 ++ m
  | .sbcM m => 71#7 ++ m
  | .daa m => 72#7 ++ m
  | .andA m => 73#7 ++ m
  | .orA m => 74#7 ++ m
  | .xorA m => 75#7 ++ m
  | .andM m => 76#7 ++ m
  | .orM m => 77#7 ++ m
  | .xorM m => 78#7 ++ m
  | .cpl m => 79#7 ++ m
  | .cpla m => 80#7 ++ m
  | .inca m => 81#7 ++ m
  | .inc m => 82#7 ++ m
  | .deca m => 83#7 ++ m
  | .dec m => 84#7 ++ m
  | .rra m => 85#7 ++ m
  | .rr m => 86#7 ++ m
  | .rrca m => 87#7 ++ m
  | .rrc m => 88#7 ++ m
  | .rla m => 89#7 ++ m
  | .rl m => 90#7 ++ m
  | .rlca m => 91#7 ++ m
  | .rlc m => 92#7 ++ m
  | .movA m => 93#7 ++ m
  | .movM m => 94#7 ++ m
  | .sz m => 95#7 ++ m
  | .sza m => 96#7 ++ m
  | .siz m => 97#7 ++ m
  | .sdz m => 98#7 ++ m
  | .siza m => 99#7 ++ m
  | .sdza m => 100#7 ++ m
  | .tabrdc m => 101#7 ++ m
  | .tabrdl m => 102#7 ++ m
  | .clr m => 103#7 ++ m
  | .set m => 104#7 ++ m
  | .swap m => 105#7 ++ m
  | .swapa m => 106#7 ++ m
  | .addI x => 24#6 ++ x
  | .subI x => 25#6 ++ x
  | .andI x => 26#6 ++ x
  | .orI x => 27#6 ++ x
  | .xorI x => 28#6 ++ x
  | .movI x => 29#6 ++ x
  | .retA x => 30#6 ++ x
  | .clrBit m i => 2#4 ++ i ++ m
  | .setBit m i => 3#4 ++ i ++ m
  | .szBit m i => 4#4 ++ i ++ m
  | .snzBit m i => 5#4 ++ i ++ m
  | .jmp addr => 0#4 ++ addr
  | .call addr => 1#4 ++ addr

/-- The instructions of format M, in the order of their sample codes. -/
def sampleMemory : List (DataAddr → Instr) :=
  [.addA, .addM, .adcA, .adcM, .subA, .subM, .sbcA, .sbcM, .daa, .andA, .orA, .xorA, .andM, .orM,
   .xorM, .cpl, .cpla, .inca, .inc, .deca, .dec, .rra, .rr, .rrca, .rrc, .rla, .rl, .rlca, .rlc,
   .movA, .movM, .sz, .sza, .siz, .sdz, .siza, .sdza, .tabrdc, .tabrdl, .clr, .set, .swap, .swapa]

/-- Those of format I. -/
def sampleImmediate : List (Byte → Instr) :=
  [.addI, .subI, .andI, .orI, .xorI, .movI, .retA]

/-- Those of format B. -/
def sampleBit : List (DataAddr → BitIndex → Instr) :=
  [.clrBit, .setBit, .szBit, .snzBit]

/-- Those of format A. -/
def sampleTransfer : List (ProgAddr → Instr) :=
  [.jmp, .call]

/-- Those of format N. -/
def samplePlain : List Instr :=
  [.nop, .clrWdt, .clrWdt1, .clrWdt2, .halt, .ret, .reti]

/-- The term of a sample word. -/
def sampleTerm (w : Word14) : Option Instr :=
  let n := w.toNat
  if n < 0x800 then sampleTransfer[n / 1024]?.map fun f => f (w.setWidth 10)
  else if n < 0x1800 then
    sampleBit[n / 1024 - 2]?.map fun f => f (w.setWidth 7) (w.extractLsb' 7 3)
  else if n < 0x2000 then sampleImmediate[n / 256 - 24]?.map fun f => f (w.setWidth 8)
  else if n < 0x3C00 then sampleMemory[n / 128 - 64]?.map fun f => f (w.setWidth 7)
  else samplePlain[n - 0x3C00]?

/-- Every term. -/
def sampleTerms : List Instr :=
  samplePlain ++
  (sampleMemory.flatMap fun f => (List.range 128).map fun m => f (BitVec.ofNat 7 m)) ++
  (sampleImmediate.flatMap fun f => (List.range 256).map fun x => f (BitVec.ofNat 8 x)) ++
  (sampleBit.flatMap fun f => (List.range 128).flatMap fun m => (List.range 8).map fun i =>
    f (BitVec.ofNat 7 m) (BitVec.ofNat 3 i)) ++
  (sampleTransfer.flatMap fun f => (List.range 1024).map fun a => f (BitVec.ofNat 10 a))

/-- The sample encoding. -/
def sampleEncoding : Encoding :=
  sampleTerms.map fun i => (sampleWord i, i)

/-! ## Every term comes back from its word, format by format -/

theorem toNat_joined {p q : Nat} (a : BitVec p) (b : BitVec q) :
    (a ++ b).toNat = a.toNat * 2 ^ q + b.toNat := by
  rw [BitVec.toNat_append, ← Nat.shiftLeft_add_eq_or_of_lt b.isLt, Nat.shiftLeft_eq]

theorem sampleTransfer_word (k : Fin 2) (a : ProgAddr) :
    sampleTerm (BitVec.ofNat 4 k.val ++ a) = sampleTransfer[k.val]?.map fun f => f a := by
  have hn : (BitVec.ofNat 4 k.val ++ a).toNat = k.val * 1024 + a.toNat := by
    rw [toNat_joined, BitVec.toNat_ofNat]; omega
  have ha := a.isLt
  have hw : BitVec.setWidth 10 (BitVec.ofNat 4 k.val ++ a) = a := by
    apply BitVec.eq_of_toNat_eq; rw [BitVec.toNat_setWidth, hn]; omega
  simp only [sampleTerm, hn, hw]
  rw [if_pos (by omega), show (k.val * 1024 + a.toNat) / 1024 = k.val by omega]

theorem sampleBit_word (k : Fin 4) (i : BitIndex) (m : DataAddr) :
    sampleTerm (BitVec.ofNat 4 (2 + k.val) ++ i ++ m) = sampleBit[k.val]?.map fun f => f m i := by
  have hn : (BitVec.ofNat 4 (2 + k.val) ++ i ++ m).toNat =
      (2 + k.val) * 1024 + i.toNat * 128 + m.toNat := by
    rw [toNat_joined, toNat_joined, BitVec.toNat_ofNat]; omega
  have hm := m.isLt
  have hi := i.isLt
  have hw : BitVec.setWidth 7 (BitVec.ofNat 4 (2 + k.val) ++ i ++ m) = m := by
    apply BitVec.eq_of_toNat_eq; rw [BitVec.toNat_setWidth, hn]; omega
  have hx : BitVec.extractLsb' 7 3 (BitVec.ofNat 4 (2 + k.val) ++ i ++ m) = i := by
    apply BitVec.eq_of_toNat_eq
    rw [BitVec.extractLsb'_toNat, hn, Nat.shiftRight_eq_div_pow]; omega
  simp only [sampleTerm, hn, hw, hx]
  rw [if_neg (by omega), if_pos (by omega),
    show ((2 + k.val) * 1024 + i.toNat * 128 + m.toNat) / 1024 - 2 = k.val by omega]

theorem sampleImmediate_word (k : Fin 7) (x : Byte) :
    sampleTerm (BitVec.ofNat 6 (24 + k.val) ++ x) = sampleImmediate[k.val]?.map fun f => f x := by
  have hn : (BitVec.ofNat 6 (24 + k.val) ++ x).toNat = (24 + k.val) * 256 + x.toNat := by
    rw [toNat_joined, BitVec.toNat_ofNat]; omega
  have hx := x.isLt
  have hw : BitVec.setWidth 8 (BitVec.ofNat 6 (24 + k.val) ++ x) = x := by
    apply BitVec.eq_of_toNat_eq; rw [BitVec.toNat_setWidth, hn]; omega
  simp only [sampleTerm, hn, hw]
  rw [if_neg (by omega), if_neg (by omega), if_pos (by omega),
    show ((24 + k.val) * 256 + x.toNat) / 256 - 24 = k.val by omega]

theorem sampleMemory_word (k : Fin 43) (m : DataAddr) :
    sampleTerm (BitVec.ofNat 7 (64 + k.val) ++ m) = sampleMemory[k.val]?.map fun f => f m := by
  have hn : (BitVec.ofNat 7 (64 + k.val) ++ m).toNat = (64 + k.val) * 128 + m.toNat := by
    rw [toNat_joined, BitVec.toNat_ofNat]; omega
  have hm := m.isLt
  have hw : BitVec.setWidth 7 (BitVec.ofNat 7 (64 + k.val) ++ m) = m := by
    apply BitVec.eq_of_toNat_eq; rw [BitVec.toNat_setWidth, hn]; omega
  simp only [sampleTerm, hn, hw]
  rw [if_neg (by omega), if_neg (by omega), if_neg (by omega), if_pos (by omega),
    show ((64 + k.val) * 128 + m.toNat) / 128 - 64 = k.val by omega]

/-- Every term comes back from its sample word. -/
theorem sampleTerm_sampleWord : (i : Instr) → sampleTerm (sampleWord i) = some i
  | .nop => by decide
  | .clrWdt => by decide
  | .clrWdt1 => by decide
  | .clrWdt2 => by decide
  | .halt => by decide
  | .ret => by decide
  | .reti => by decide
  | .addA m => sampleMemory_word 0 m
  | .addM m => sampleMemory_word 1 m
  | .adcA m => sampleMemory_word 2 m
  | .adcM m => sampleMemory_word 3 m
  | .subA m => sampleMemory_word 4 m
  | .subM m => sampleMemory_word 5 m
  | .sbcA m => sampleMemory_word 6 m
  | .sbcM m => sampleMemory_word 7 m
  | .daa m => sampleMemory_word 8 m
  | .andA m => sampleMemory_word 9 m
  | .orA m => sampleMemory_word 10 m
  | .xorA m => sampleMemory_word 11 m
  | .andM m => sampleMemory_word 12 m
  | .orM m => sampleMemory_word 13 m
  | .xorM m => sampleMemory_word 14 m
  | .cpl m => sampleMemory_word 15 m
  | .cpla m => sampleMemory_word 16 m
  | .inca m => sampleMemory_word 17 m
  | .inc m => sampleMemory_word 18 m
  | .deca m => sampleMemory_word 19 m
  | .dec m => sampleMemory_word 20 m
  | .rra m => sampleMemory_word 21 m
  | .rr m => sampleMemory_word 22 m
  | .rrca m => sampleMemory_word 23 m
  | .rrc m => sampleMemory_word 24 m
  | .rla m => sampleMemory_word 25 m
  | .rl m => sampleMemory_word 26 m
  | .rlca m => sampleMemory_word 27 m
  | .rlc m => sampleMemory_word 28 m
  | .movA m => sampleMemory_word 29 m
  | .movM m => sampleMemory_word 30 m
  | .sz m => sampleMemory_word 31 m
  | .sza m => sampleMemory_word 32 m
  | .siz m => sampleMemory_word 33 m
  | .sdz m => sampleMemory_word 34 m
  | .siza m => sampleMemory_word 35 m
  | .sdza m => sampleMemory_word 36 m
  | .tabrdc m => sampleMemory_word 37 m
  | .tabrdl m => sampleMemory_word 38 m
  | .clr m => sampleMemory_word 39 m
  | .set m => sampleMemory_word 40 m
  | .swap m => sampleMemory_word 41 m
  | .swapa m => sampleMemory_word 42 m
  | .addI x => sampleImmediate_word 0 x
  | .subI x => sampleImmediate_word 1 x
  | .andI x => sampleImmediate_word 2 x
  | .orI x => sampleImmediate_word 3 x
  | .xorI x => sampleImmediate_word 4 x
  | .movI x => sampleImmediate_word 5 x
  | .retA x => sampleImmediate_word 6 x
  | .clrBit m i => sampleBit_word 0 i m
  | .setBit m i => sampleBit_word 1 i m
  | .szBit m i => sampleBit_word 2 i m
  | .snzBit m i => sampleBit_word 3 i m
  | .jmp addr => sampleTransfer_word 0 addr
  | .call addr => sampleTransfer_word 1 addr

theorem mem_sampleMemory {f : DataAddr → Instr} (h : f ∈ sampleMemory) (m : DataAddr) :
    f m ∈ sampleTerms := by
  simp only [sampleTerms, List.mem_append, List.mem_flatMap, List.mem_map, List.mem_range]
  exact .inl (.inl (.inl (.inr ⟨f, h, m.toNat, m.isLt, by simp⟩)))

theorem mem_sampleImmediate {f : Byte → Instr} (h : f ∈ sampleImmediate) (x : Byte) :
    f x ∈ sampleTerms := by
  simp only [sampleTerms, List.mem_append, List.mem_flatMap, List.mem_map, List.mem_range]
  exact .inl (.inl (.inr ⟨f, h, x.toNat, x.isLt, by simp⟩))

theorem mem_sampleBit {f : DataAddr → BitIndex → Instr} (h : f ∈ sampleBit) (m : DataAddr)
    (i : BitIndex) : f m i ∈ sampleTerms := by
  simp only [sampleTerms, List.mem_append, List.mem_flatMap, List.mem_map, List.mem_range]
  exact .inl (.inr ⟨f, h, m.toNat, m.isLt, i.toNat, i.isLt, by simp⟩)

theorem mem_sampleTransfer {f : ProgAddr → Instr} (h : f ∈ sampleTransfer) (a : ProgAddr) :
    f a ∈ sampleTerms := by
  simp only [sampleTerms, List.mem_append, List.mem_flatMap, List.mem_map, List.mem_range]
  exact .inr ⟨f, h, a.toNat, a.isLt, by simp⟩

/-- No term is left out. -/
theorem mem_sampleTerms : (i : Instr) → i ∈ sampleTerms
  | .nop => by simp [sampleTerms, samplePlain]
  | .clrWdt => by simp [sampleTerms, samplePlain]
  | .clrWdt1 => by simp [sampleTerms, samplePlain]
  | .clrWdt2 => by simp [sampleTerms, samplePlain]
  | .halt => by simp [sampleTerms, samplePlain]
  | .ret => by simp [sampleTerms, samplePlain]
  | .reti => by simp [sampleTerms, samplePlain]
  | .addA m => mem_sampleMemory (List.mem_of_getElem? (i := 0) rfl) m
  | .addM m => mem_sampleMemory (List.mem_of_getElem? (i := 1) rfl) m
  | .adcA m => mem_sampleMemory (List.mem_of_getElem? (i := 2) rfl) m
  | .adcM m => mem_sampleMemory (List.mem_of_getElem? (i := 3) rfl) m
  | .subA m => mem_sampleMemory (List.mem_of_getElem? (i := 4) rfl) m
  | .subM m => mem_sampleMemory (List.mem_of_getElem? (i := 5) rfl) m
  | .sbcA m => mem_sampleMemory (List.mem_of_getElem? (i := 6) rfl) m
  | .sbcM m => mem_sampleMemory (List.mem_of_getElem? (i := 7) rfl) m
  | .daa m => mem_sampleMemory (List.mem_of_getElem? (i := 8) rfl) m
  | .andA m => mem_sampleMemory (List.mem_of_getElem? (i := 9) rfl) m
  | .orA m => mem_sampleMemory (List.mem_of_getElem? (i := 10) rfl) m
  | .xorA m => mem_sampleMemory (List.mem_of_getElem? (i := 11) rfl) m
  | .andM m => mem_sampleMemory (List.mem_of_getElem? (i := 12) rfl) m
  | .orM m => mem_sampleMemory (List.mem_of_getElem? (i := 13) rfl) m
  | .xorM m => mem_sampleMemory (List.mem_of_getElem? (i := 14) rfl) m
  | .cpl m => mem_sampleMemory (List.mem_of_getElem? (i := 15) rfl) m
  | .cpla m => mem_sampleMemory (List.mem_of_getElem? (i := 16) rfl) m
  | .inca m => mem_sampleMemory (List.mem_of_getElem? (i := 17) rfl) m
  | .inc m => mem_sampleMemory (List.mem_of_getElem? (i := 18) rfl) m
  | .deca m => mem_sampleMemory (List.mem_of_getElem? (i := 19) rfl) m
  | .dec m => mem_sampleMemory (List.mem_of_getElem? (i := 20) rfl) m
  | .rra m => mem_sampleMemory (List.mem_of_getElem? (i := 21) rfl) m
  | .rr m => mem_sampleMemory (List.mem_of_getElem? (i := 22) rfl) m
  | .rrca m => mem_sampleMemory (List.mem_of_getElem? (i := 23) rfl) m
  | .rrc m => mem_sampleMemory (List.mem_of_getElem? (i := 24) rfl) m
  | .rla m => mem_sampleMemory (List.mem_of_getElem? (i := 25) rfl) m
  | .rl m => mem_sampleMemory (List.mem_of_getElem? (i := 26) rfl) m
  | .rlca m => mem_sampleMemory (List.mem_of_getElem? (i := 27) rfl) m
  | .rlc m => mem_sampleMemory (List.mem_of_getElem? (i := 28) rfl) m
  | .movA m => mem_sampleMemory (List.mem_of_getElem? (i := 29) rfl) m
  | .movM m => mem_sampleMemory (List.mem_of_getElem? (i := 30) rfl) m
  | .sz m => mem_sampleMemory (List.mem_of_getElem? (i := 31) rfl) m
  | .sza m => mem_sampleMemory (List.mem_of_getElem? (i := 32) rfl) m
  | .siz m => mem_sampleMemory (List.mem_of_getElem? (i := 33) rfl) m
  | .sdz m => mem_sampleMemory (List.mem_of_getElem? (i := 34) rfl) m
  | .siza m => mem_sampleMemory (List.mem_of_getElem? (i := 35) rfl) m
  | .sdza m => mem_sampleMemory (List.mem_of_getElem? (i := 36) rfl) m
  | .tabrdc m => mem_sampleMemory (List.mem_of_getElem? (i := 37) rfl) m
  | .tabrdl m => mem_sampleMemory (List.mem_of_getElem? (i := 38) rfl) m
  | .clr m => mem_sampleMemory (List.mem_of_getElem? (i := 39) rfl) m
  | .set m => mem_sampleMemory (List.mem_of_getElem? (i := 40) rfl) m
  | .swap m => mem_sampleMemory (List.mem_of_getElem? (i := 41) rfl) m
  | .swapa m => mem_sampleMemory (List.mem_of_getElem? (i := 42) rfl) m
  | .addI x => mem_sampleImmediate (List.mem_of_getElem? (i := 0) rfl) x
  | .subI x => mem_sampleImmediate (List.mem_of_getElem? (i := 1) rfl) x
  | .andI x => mem_sampleImmediate (List.mem_of_getElem? (i := 2) rfl) x
  | .orI x => mem_sampleImmediate (List.mem_of_getElem? (i := 3) rfl) x
  | .xorI x => mem_sampleImmediate (List.mem_of_getElem? (i := 4) rfl) x
  | .movI x => mem_sampleImmediate (List.mem_of_getElem? (i := 5) rfl) x
  | .retA x => mem_sampleImmediate (List.mem_of_getElem? (i := 6) rfl) x
  | .clrBit m i => mem_sampleBit (List.mem_of_getElem? (i := 0) rfl) m i
  | .setBit m i => mem_sampleBit (List.mem_of_getElem? (i := 1) rfl) m i
  | .szBit m i => mem_sampleBit (List.mem_of_getElem? (i := 2) rfl) m i
  | .snzBit m i => mem_sampleBit (List.mem_of_getElem? (i := 3) rfl) m i
  | .jmp addr => mem_sampleTransfer (List.mem_of_getElem? (i := 0) rfl) addr
  | .call addr => mem_sampleTransfer (List.mem_of_getElem? (i := 1) rfl) addr

/-- The sample encoding meets R94 (b) and (c). -/
theorem sampleEncoding_wf : sampleEncoding.wf = true := by
  simp only [Encoding.wf, Bool.and_eq_true, List.all_eq_true, Encoding.oneToOne, sampleEncoding,
    List.mem_map]
  refine ⟨?_, ?_⟩
  · rintro _ ⟨i, -, rfl⟩
    cases i <;> simp only [Encoding.addressInPlace, sampleWord, beq_iff_eq]
    all_goals
      apply BitVec.eq_of_toNat_eq
      rw [BitVec.toNat_setWidth, toNat_joined, BitVec.toNat_ofNat]
      omega
  · rintro _ ⟨i, -, rfl⟩ _ ⟨j, -, rfl⟩
    rw [beq_iff_eq, Bool.eq_iff_iff, beq_iff_eq, beq_iff_eq]
    refine ⟨fun (h : sampleWord i = sampleWord j) => ?_, fun h => congrArg sampleWord h⟩
    have hi : sampleTerm (sampleWord i) = some i := sampleTerm_sampleWord i
    have hj : sampleTerm (sampleWord j) = some j := sampleTerm_sampleWord j
    rw [h, hj] at hi
    exact (Option.some.inj hi).symm

/-- The sample encoding gives every term a word. -/
theorem sampleEncoding_complete : sampleEncoding.complete := fun i =>
  ⟨sampleWord i, List.mem_map_of_mem (mem_sampleTerms i)⟩

/-- R94 can be met. -/
theorem sampleEncoding_lawful : sampleEncoding.lawful :=
  ⟨sampleEncoding_wf, sampleEncoding_complete⟩

end Sys2Proof
end

