-- ==== Sys2Proof/Config.lean ====
section
/-!
DEFINITION. What is fixed for a machine and what the spec leaves free: the code options (00_scope.md R9),
the other open arguments (00_scope.md R8, 92_eei_decisions.md section 3), the environment's input of one
step (10_state.md R41, 60_exceptions.md R263), and the free constants, which have no body, so that nothing
can be proved of a particular value of them.
-/
namespace Sys2Proof

/-- `OPT_WDT_CLK` (R9, R269): the watchdog's clock. -/
inductive WdtClock where
  /-- The on-chip RC oscillator. -/
  | wdtOsc
  /-- The instruction clock, f_SYS/4. -/
  | fsysDiv4
deriving DecidableEq, Repr, Inhabited

/-- `OPT_CLRWDT_TIMES` (R9, R243 to R245): one or two clear instructions. -/
inductive ClrWdtTimes where
  | one
  | two
deriving DecidableEq, Repr, Inhabited

/-- `OPT_OSC` (R9): the system oscillator; no rule of the spec depends on it. -/
inductive Oscillator where
  | rc
  | crystal
deriving DecidableEq, Repr, Inhabited

/-- The seven code options (R9), fixed when the device is programmed; no instruction reads or writes
them. Log 30. -/
structure Options where
  /-- `OPT_WDT_CLK`. -/
  wdtClk : WdtClock
  /-- `OPT_WDT_EN`. -/
  wdtEnable : Bool
  /-- `OPT_LVR_EN`. -/
  lvrEnable : Bool
  /-- `OPT_CLRWDT_TIMES`. -/
  clrWdtTimes : ClrWdtTimes
  /-- `OPT_OSC`. -/
  osc : Oscillator
  /-- `OPT_PULLHIGH`. -/
  pullHigh : Bool
  /-- `OPT_PA_WAKE[0..7]`, bit i for line PAi. -/
  paWake : BitVec 8
deriving DecidableEq, Repr, Inhabited

/-- The open arguments of the model other than the program and the environment (R8). They ride in the
state as data that no step changes. -/
structure Params where
  /-- `DECODE` (R94). -/
  encoding : Encoding
  /-- The code options (R9). -/
  options : Options
  /-- `GPR_BASE - 16H`: D4 constrains `16H <= GPR_BASE <= 60H`. Log 5. -/
  gprOffset : Fin 75
  /-- `WDTDIS_CLR_FLAGS` (R250, D15). Log 16. -/
  wdtDisClrFlags : Bool
  /-- `RAM_SURVIVES_RESET` (D18). Log 21. -/
  ramSurvivesReset : Bool
deriving DecidableEq, Repr, Inhabited

/-- What the environment does at one step (R41, R263, R269, R276, R300; D17, D20, D23, D24, D34).
Log 23. -/
structure Input where
  /-- Levels at the port A pads, line i in bit i; at a pad nothing drives, the level it floats at. -/
  padA : BitVec 8
  /-- Levels at the port B pads. -/
  padB : BitVec 3
  /-- Which port A pads the environment drives. -/
  drivenA : BitVec 8
  /-- Which port B pads the environment drives. -/
  drivenB : BitVec 3
  /-- The supply was cycled (R300, `ResetPowerOn`). -/
  powerOn : Bool
  /-- The RES pin is low (R300, `ResetRES`). -/
  resLow : Bool
  /-- The supply is in the range the LVR watches, long enough (R279). -/
  lowVoltage : Bool
  /-- Falling edges on the port A pads (R275). -/
  fallA : BitVec 8
  /-- Ticks of the watchdog oscillator since the last boundary (R269). -/
  oscTicks : Nat
  /-- Within the window of R270: the watchdog times out now. -/
  wdtFire : Bool
  /-- A wake-up due together with a time-out in HALT mode comes first (R264). -/
  wakeFirst : Bool
deriving DecidableEq, Repr, Inhabited

/-- The same pads, with no event and no tick. -/
def Input.quiet (i : Input) : Input :=
  { i with powerOn := false, resLow := false, lowVoltage := false, fallA := 0#8, oscTicks := 0,
           wdtFire := false, wakeFirst := false }

/-- The four flags that arithmetic and data writes reach (10_state.md R25, bits 3..0 of STATUS). -/
inductive Flag where
  | c | ac | z | ov
deriving DecidableEq, Repr

/-! ## Free constants: open arguments -/

/-- An encoding that meets R94. The field's default only shows that there is one. -/
structure LawfulEncoding where
  rows : Encoding := sampleEncoding
  lawful : rows.lawful := by exact sampleEncoding_lawful
deriving Inhabited

/-- The chip's `DECODE`, which the source does not give (D1): any encoding that meets R94. Free, log 1. -/
opaque Config.decodeTable : LawfulEncoding

/-- The chip's code options (R9, D28). Free, log 30. -/
opaque Config.options : Options

/-- The chip's `GPR_BASE - 16H` (D4). Free, log 5. -/
opaque Config.gprOffset : Fin 75

/-- The chip's `WDTDIS_CLR_FLAGS` (D15). Free, log 16. -/
opaque Config.wdtDisClrFlags : Bool

/-- The word at a program address no word was placed at (R36, R82, D1). Free, log 2. -/
opaque Config.romWord : ProgAddr → Word14

/-- Inputs without end in which the ticks of the watchdog oscillator never stop (R269, D17: unconstrained but
fair). The default of the first field only shows that there are such inputs. -/
structure InputStream where
  inputAt : Nat → Input := fun _ => { (default : Input) with oscTicks := 1 }
  ticksNeverStop : ∀ n, ∃ k, n ≤ k ∧ 0 < (inputAt k).oscTicks := by
    exact fun n => ⟨n, Nat.le_refl n, Nat.zero_lt_one⟩
deriving Inhabited

/-- The environment's inputs by the index of the step (D17, D20, D23). Free, log 19, log 23. -/
opaque Config.input : InputStream

/-! ## Free constants: values unknown after a reset (R43, R44, D26), by the index of the step -/

/-- ACC after a power-on. Free, log 28. -/
opaque Config.accAtPowerOn : Nat → Byte

/-- MP after a power-on. Free, log 28. -/
opaque Config.mpAtPowerOn : Nat → BitVec 7

/-- TBLP after a power-on. Free, log 28. -/
opaque Config.tblpAtPowerOn : Nat → Byte

/-- TBLH after a power-on. Free, log 28. -/
opaque Config.tblhAtPowerOn : Nat → BitVec 6

/-- The stack register after a power-on. Free, log 28. -/
opaque Config.stackAtPowerOn : Nat → ProgAddr

/-- C, AC, Z and OV after a power-on. Free, log 28. -/
opaque Config.flagAtPowerOn : Flag → Nat → Bool

/-- A byte of general purpose RAM after the reset of an epoch that lost it, by its address (D18).
Free, log 21. -/
opaque Config.ramByte : Nat → Nat → Byte

/-- The mark `wf1` after a reset or HALT (D16). Free, log 17. -/
opaque Config.wf1Draw : Nat → Bool

/-- The mark `wf2` after a reset or HALT (D16). Free, log 17. -/
opaque Config.wf2Draw : Nat → Bool

/-- `EMI` after a reset (R43, D9). Free, log 10. -/
opaque Config.emiDraw : Nat → Bool

/-! ## Free constants: values an instruction leaves open, by the index of the step -/

/-- What TBLH bits 7..6 read as (R67, D14). Free, log 15. -/
opaque Config.tblhUnused : Nat → BitVec 2

/-- What PBC bits 7..3 read as (R70, D14). Free, log 15. -/
opaque Config.pbcUnused : Nat → BitVec 5

/-- A flag that an instruction wrote twice, as data of STATUS and by its flag logic (R69, D11).
Free, log 12. -/
opaque Config.statusRace : Flag → Nat → Bool

/-- `AC1` of DAA when the low nibble is over 9 and AC is set (R123, D25). Free, log 27. -/
opaque Config.daaCarry : Nat → Bool

end Sys2Proof
end

