-- ==== Sys2Proof/Decode.lean ====
section
/-!
DEFINITION. Decoding and encoding over the open argument `DECODE` (30_encoding.md R94, R95). The source
gives no bit pattern (91_not_in_source.md N1), so both read the encoding they are given. Log 1.
-/
namespace Sys2Proof

/-- `DECODE(w)` (R94): the term a word spells, `none` for a word that spells no instruction (R94 (d)). -/
def decode (enc : Encoding) (w : Word14) : Option Instr :=
  enc.lookup w

/-- `ENC(i)` (R94 (b)): the word of a term, `none` where the encoding gives it no word. -/
def encode (enc : Encoding) (i : Instr) : Option Word14 :=
  (enc.find? fun r => r.2 == i).map Prod.fst

/-- The encoding of the chip, a free constant that meets R94 (D1). Log 1. -/
def chipEncoding : Encoding :=
  Config.decodeTable.rows

/-- The instruction the chip's decoder reads from the bits of one table row. A program word has 14 bits
(R90), so a number of more bits is no word. Log 38. -/
def decodeTableWord (_nbits w : Nat) : Option Instr :=
  if w < 2 ^ 14 then decode chipEncoding (BitVec.ofNat 14 w) else none

end Sys2Proof
end

