-- ==== Sys2Proof/Machine/State.lean ====
section
/-!
DEFINITION. The state of the machine (10_state.md R20) as plain data, the reasons a step can stop, and
the state after power-on (10_state.md R43, 70_reset_and_hazards.md R301).
-/
namespace Sys2Proof.Machine

/-- The power state (R40, R273, R274). -/
inductive Mode where
  /-- The core executes instructions. -/
  | run
  /-- The core takes no step until a reset, a time-out or a wake-up. -/
  | halt
deriving DecidableEq, Repr

/-- The model's faults (R260): behaviour the source leaves undefined, where the spec decides that the
run ends. The hardware reports none of them. -/
inductive Fault where
  /-- Raised by `step` when the word at `pc` spells no instruction (R95, R261). Safe: the chip goes on
  in a way the source does not give. Log 11. -/
  | undefinedInstruction
  /-- Raised by CALL when a return address is held already (R210, D8). Safe. Log 9. -/
  | stackOverflow
  /-- Raised by RET, RET A,x and RETI when no return address is held (R211 to R213, D8). Safe. Log 9. -/
  | stackUnderflow
deriving DecidableEq, Repr

/-- The spec's refusals (92_eei_decisions.md section 1): steps to which the spec gives no meaning. -/
inductive Refusal where
  /-- Raised by `exec` for an instruction without a meaning; no arm does. Safe. -/
  | notModelled (mnemonic : String)
  /-- Raised by an access to a data address at which the spec names nothing (R72, D5). Safe. Log 6. -/
  | unimplementedAddress (a : DataAddr)
  /-- Raised by a write of TBLH by an instruction's `[m]` (R67, D13). Safe. Log 14. -/
  | tblhWrite
  /-- Raised by a write of PCL by an instruction at an address with low byte FFH (R65, D7). Safe. Log 8. -/
  | pclWriteAtPageEnd
  /-- Raised by TABRDC at an address with low byte FFH (R231, D7). Safe. Log 8. -/
  | tableReadAtPageEnd
  /-- Raised by SIZ and SDZ with destination PCL (R206, R207, D12). Safe. Log 13. -/
  | skipWithPclDestination
  /-- Raised by `step` for a low supply with the LVR disabled (R279, D24). Safe. Log 26. -/
  | brownOut
deriving DecidableEq, Repr

/-- The state. First the architectural state of R20, then the model's arguments (R8), then the model's
own fields. -/
structure State where
  /-- ACC (R21). -/
  acc : Byte
  /-- The program counter (R22); inside an instruction's meaning, `npc` (R23). -/
  pc : ProgAddr
  /-- The stack register (R24). -/
  stack : ProgAddr
  /-- The number of return addresses held (R24). -/
  sp : Fin 2
  /-- STATUS bit 0 (R25). -/
  c : Bool
  /-- STATUS bit 1 (R25). -/
  ac : Bool
  /-- STATUS bit 2 (R25). -/
  z : Bool
  /-- STATUS bit 3 (R25). -/
  ov : Bool
  /-- STATUS bit 4 (R25). -/
  pdf : Bool
  /-- STATUS bit 5 (R25). -/
  tout : Bool
  /-- MP (R27). -/
  mp : BitVec 7
  /-- TBLP (R30). -/
  tblp : Byte
  /-- TBLH (R31). -/
  tblh : BitVec 6
  /-- WDTS (R32). -/
  wdts : Byte
  /-- Port A latch (R33). -/
  pa : BitVec 8
  /-- Port A control (R33). -/
  pac : BitVec 8
  /-- Port B latch (R34). -/
  pb : BitVec 3
  /-- Port B control (R34). -/
  pbc : BitVec 3
  /-- General purpose RAM (R35): the bytes written since it was last lost, by data address. Log 21. -/
  ram : List Host.Cell
  /-- The watchdog (R37): WDT clocks since the last clear. -/
  wdt : Nat
  /-- "CLR WDT1 executed" (R38). -/
  wf1 : Bool
  /-- "CLR WDT2 executed" (R38). -/
  wf2 : Bool
  /-- EMI (R39). -/
  emi : Bool
  /-- RUN or HALT (R40). -/
  mode : Mode
  /-- Program memory (R36, R82): the words placed, by program address. No step changes it. Log 2. -/
  rom : List (Nat × Word14)
  /-- The open arguments (R8). No step changes them. -/
  params : Params
  /-- The model's own: WS2..WS0 changed since the last clear (D31). Log 20. -/
  wsChanged : Bool
  /-- The model's own: the environment's inputs laid down for the coming steps. Log 23. -/
  env : List Input
  /-- The model's own: the index of the step (D32), which every draw is indexed by. Log 35. -/
  time : Nat
  /-- The model's own: how often RAM was lost to a reset (D18). Log 21. -/
  ramEpoch : Nat
deriving DecidableEq, Repr

/-- What a step or a meaning answers. -/
abbrev Result := Host.Outcome State Fault Refusal

/-- The machine right after power-on (R43 column "power-on", R301), with no word placed in program
memory (log 2). Unknown values are free constants (R44, log 28). -/
def State.reset : State where
  acc := Config.accAtPowerOn 0
  pc := 0x000#10
  stack := Config.stackAtPowerOn 0
  sp := 0
  c := Config.flagAtPowerOn .c 0
  ac := Config.flagAtPowerOn .ac 0
  z := Config.flagAtPowerOn .z 0
  ov := Config.flagAtPowerOn .ov 0
  pdf := false
  tout := false
  mp := Config.mpAtPowerOn 0
  tblp := Config.tblpAtPowerOn 0
  tblh := Config.tblhAtPowerOn 0
  wdts := 0x07#8
  pa := 0xFF#8
  pac := 0xFF#8
  pb := 0b111#3
  pbc := 0b111#3
  ram := []
  wdt := 0
  wf1 := Config.wf1Draw 0
  wf2 := Config.wf2Draw 0
  emi := Config.emiDraw 0
  mode := .run
  rom := []
  params :=
    { encoding := chipEncoding
      options := Config.options
      gprOffset := Config.gprOffset
      wdtDisClrFlags := Config.wdtDisClrFlags
      ramSurvivesReset := false }
  wsChanged := false
  env := []
  time := 0
  ramEpoch := 0

end Sys2Proof.Machine
end

