-- ==== Sys2Proof/Machine/Flags.lean ====
section
/-!
DEFINITION. The ALU: results and flags (40_arithmetic.md R110, R111, R123; 41_logic.md R130;
42_incdec.md R154; 43_rotate.md R168), and the flag writes of an instruction (10_state.md R26).
-/
namespace Sys2Proof.Machine

/-- The flags an instruction writes (R26): `none` for a flag it does not affect. TO and PDF are never
among them. -/
structure FlagUpdate where
  c : Option Bool := none
  ac : Option Bool := none
  z : Option Bool := none
  ov : Option Bool := none
deriving DecidableEq, Repr

/-- What the ALU gives: the result byte and the flags written. -/
structure AluOut where
  value : Byte
  flags : FlagUpdate := {}
deriving DecidableEq, Repr

/-- Write the affected flags, keep the others. -/
def State.applyFlags (u : FlagUpdate) (s : State) : State :=
  { s with c := u.c.getD s.c, ac := u.ac.getD s.ac, z := u.z.getD s.z, ov := u.ov.getD s.ov }

/-- The flags of an instruction whose destination is STATUS: each flag it affects is written twice and
its value is free (R69, D11). Log 12. -/
def FlagUpdate.raced (n : Nat) (u : FlagUpdate) : FlagUpdate where
  c := u.c.map fun _ => Config.statusRace .c n
  ac := u.ac.map fun _ => Config.statusRace .ac n
  z := u.z.map fun _ => Config.statusRace .z n
  ov := u.ov.map fun _ => Config.statusRace .ov n

/-! ## Addition and subtraction -/

/-- `Add8(a, b, cin)` (R110). -/
def add8 (a b : Byte) (cin : Bool) : AluOut :=
  let sum := a.toNat + b.toNat + cin.toNat
  let r := BitVec.ofNat 8 sum
  let carry := decide (256 ≤ sum)
  let half := decide (16 ≤ a.toNat % 16 + b.toNat % 16 + cin.toNat)
  let carry7 := decide (128 ≤ a.toNat % 128 + b.toNat % 128 + cin.toNat)
  { value := r
    flags := { c := some carry, ac := some half, ov := some (carry7 ^^ carry), z := some (r == 0#8) } }

/-- `a - b` as `Add8(a, ~b, 1)` (R111). -/
def sub8 (a b : Byte) : AluOut :=
  add8 a (~~~b) true

/-- `a - b - (1 - cin)` as `Add8(a, ~b, cin)` (R111). -/
def sbc8 (a b : Byte) (cin : Bool) : AluOut :=
  add8 a (~~~b) cin

/-- DAA (R123) of the accumulator `a` with the flags `c` and `ac`. `corner` is `AC1` where the low nibble
is over 9 and AC is set, which the spec leaves between two values (D25). Log 27. -/
def daa8 (a : Byte) (c ac corner : Bool) : AluOut :=
  let lo := a.toNat % 16
  let hi := a.toNat / 16
  let adjustLo := decide (9 < lo) || ac
  let rlo := if adjustLo then (lo + 6) % 16 else lo
  let ac1 := if adjustLo then (if decide (9 < lo) && ac then corner else !ac) else false
  let adjustHi := decide (9 < hi + ac1.toNat) || c
  let rhi := if adjustHi then (hi + 6 + ac1.toNat) % 16 else (hi + ac1.toNat) % 16
  { value := BitVec.ofNat 8 (rhi * 16 + rlo), flags := { c := some (if adjustHi then true else c) } }

/-! ## Logic, increment, decrement: Z only -/

/-- A result that writes Z and only Z (R130, R154). -/
def zeroFlagged (v : Byte) : AluOut :=
  { value := v, flags := { z := some (v == 0#8) } }

/-- A result that writes no flag. -/
def unflagged (v : Byte) : AluOut :=
  { value := v }

/-! ## Rotates (R168) -/

/-- `rol8(v)`. -/
def rol8 (v : Byte) : Byte :=
  v.extractLsb' 0 7 ++ v.extractLsb' 7 1

/-- `ror8(v)`. -/
def ror8 (v : Byte) : Byte :=
  v.extractLsb' 0 1 ++ v.extractLsb' 1 7

/-- `rolc(v, c)`: nine-bit rotate left, the carry out is bit 7. -/
def rolc (v : Byte) (c : Bool) : AluOut :=
  { value := v.extractLsb' 0 7 ++ BitVec.ofBool c, flags := { c := some (v.getLsbD 7) } }

/-- `rorc(v, c)`: nine-bit rotate right, the carry out is bit 0. -/
def rorc (v : Byte) (c : Bool) : AluOut :=
  { value := BitVec.ofBool c ++ v.extractLsb' 1 7, flags := { c := some (v.getLsbD 0) } }

/-! ## Nibbles and bits -/

/-- The byte with its nibbles interchanged (R246). -/
def swapNibbles (v : Byte) : Byte :=
  v.extractLsb' 0 4 ++ v.extractLsb' 4 4

/-- The byte with bit `i` cleared (R190). -/
def clearBit (v : Byte) (i : BitIndex) : Byte :=
  v &&& ~~~(1#8 <<< i.toNat)

/-- The byte with bit `i` set (R191). -/
def insertBit (v : Byte) (i : BitIndex) : Byte :=
  v ||| (1#8 <<< i.toNat)

/-! ## STATUS (R69) -/

/-- What `DRead(0AH)` gives: bits 7..6 read 0. -/
def State.statusByte (s : State) : Byte :=
  0#2 ++ BitVec.ofBool s.tout ++ BitVec.ofBool s.pdf ++ BitVec.ofBool s.ov ++ BitVec.ofBool s.z ++
    BitVec.ofBool s.ac ++ BitVec.ofBool s.c

/-- What `DWrite(0AH, v)` does: bits 3..0 only; TO and PDF keep their values. -/
def State.writeStatus (v : Byte) (s : State) : State :=
  { s with c := v.getLsbD 0, ac := v.getLsbD 1, z := v.getLsbD 2, ov := v.getLsbD 3 }

end Sys2Proof.Machine
end

