-- ==== Sys2Proof/Machine/Ops.lean ====
section
/-!
DEFINITION. The named operations over memory, the program counter, the stack and the watchdog, and the
shared part of every reset. The machine has no exception (60_exceptions.md R260): what takes the place of
exception entry is `State.restart`, and of a return from one the pop of the stack register (R265, R266).
-/
namespace Sys2Proof.Machine

/-! ## Answers -/

/-- Go on from a next state; a fault or a refusal ends the step. -/
def andThen (r : Result) (f : State → Result) : Result :=
  match r with
  | .next s => f s
  | .fault e => .fault e
  | .refused e => .refused e

/-- Change the next state, if there is one. -/
def onNext (r : Result) (f : State → State) : Result :=
  andThen r fun s => .next (f s)

/-! ## Memory as a list of written cells -/

/-- The cell at an address, `none` where none is listed. -/
def Memory.read {α : Type} : List (Nat × α) → Nat → Option α
  | [], _ => none
  | (a, v) :: rest, k => if a = k then some v else Memory.read rest k

/-- Put a cell at its place in the rising order of addresses. -/
def Memory.write {α : Type} : List (Nat × α) → Nat → α → List (Nat × α)
  | [], k, v => [(k, v)]
  | (a, w) :: rest, k, v =>
    if k < a then (k, v) :: (a, w) :: rest
    else if k = a then (k, v) :: rest
    else (a, w) :: Memory.write rest k v

/-- The canonical form: addresses strictly rising. What is not listed has no known value (log 2, log 21),
so no listed cell equals it. -/
abbrev Memory.wf {α : Type} (m : List (Nat × α)) : Prop :=
  (m.map Prod.fst).Pairwise (· < ·)

/-- The word of program memory at an address (R82): the word placed there, or the chip's own, which is
free. Log 2. -/
def State.progRead (a : ProgAddr) (s : State) : Word14 :=
  (Memory.read s.rom a.toNat).getD (Config.romWord a)

/-- `GPR_BASE` (R8, D4). Log 5. -/
def gprBase (p : Params) : Nat :=
  0x16 + p.gprOffset.val

/-- A byte of general purpose RAM (R71): the byte written, or the one the last reset left, which is free
(R44, D18). Log 21. -/
def State.ramRead (a : Nat) (s : State) : Byte :=
  (Memory.read s.ram a).getD (Config.ramByte s.ramEpoch a)

/-- Write a byte of general purpose RAM (R71). -/
def State.ramWrite (a : Nat) (v : Byte) (s : State) : State :=
  { s with ram := Memory.write s.ram a v }

/-! ## The environment and free values -/

/-- The environment's input at this step (R41, R263). Log 23. -/
def State.input (s : State) : Input :=
  s.env.head?.getD (Config.input.inputAt s.time)

/-- The index of the draws of this step; 0 is the power-on of `State.reset`. Log 35. -/
def State.drawIndex (s : State) : Nat :=
  s.time + 1

/-- The end of a step: the input is used up, the next step has the next index. -/
def State.passTime (s : State) : State :=
  { s with env := s.env.tail, time := s.time + 1 }

/-! ## The watchdog (60_exceptions.md R268 to R271) -/

/-- The division ratio WS2..WS0 select (R270). -/
def State.wdtRatio (s : State) : Nat :=
  2 ^ (s.wdts.setWidth 3).toNat

/-- Instruction cycles pass: they are the WDT clocks when the clock is f_SYS/4 (R269, R320). -/
def State.countCycles (n : Nat) (s : State) : State :=
  { s with wdt := if s.params.options.wdtEnable && s.params.options.wdtClk == .fsysDiv4
                  then s.wdt + n else s.wdt }

/-- Ticks of the RC oscillator pass: they are the WDT clocks when it is the clock (R269), in RUN and in
HALT alike. Log 19. -/
def State.countOscTicks (n : Nat) (s : State) : State :=
  { s with wdt := if s.params.options.wdtEnable && s.params.options.wdtClk == .wdtOsc
                  then s.wdt + n else s.wdt }

/-- `wdt <- 0`, counter and prescaler (R271). -/
def State.clearWatchdog (s : State) : State :=
  { s with wdt := 0, wsChanged := false }

/-- No time-out falls while fewer WDT clocks than this have passed since the last clear (R270, D17, D31).
Log 18, log 20. -/
def State.wdtEarliest (s : State) : Nat :=
  if s.wsChanged then 255 else 512 * s.wdtRatio - 1

/-- Once this many WDT clocks have passed since the last clear a time-out falls, at the first boundary in RUN
mode and at once in HALT mode, if it has not fallen before (R270, D17, D31). Log 18, log 20. -/
def State.wdtLatest (s : State) : Nat :=
  if s.wsChanged then 512 * 128 + 1 else 512 * s.wdtRatio + 1

/-- Whether a time-out falls at this boundary (R263, R270); `fire` is the environment's choice inside the
window. In HALT mode only the RC oscillator can bring one. Log 18. -/
def State.wdtDue (fire : Bool) (s : State) : Bool :=
  s.params.options.wdtEnable &&
    (decide (s.mode = .run) || decide (s.params.options.wdtClk = .wdtOsc)) &&
    (decide (s.wdtLatest ≤ s.wdt) || (fire && decide (s.wdtEarliest ≤ s.wdt)))

/-! ## The program counter (10_state.md R22, R23) -/

/-- The start of every instruction rule (R15, R23): `npc <- (pc + 1) mod 1024`, and the instruction's
base cycles pass (R320). From here to the end of the meaning `pc` holds `npc`. -/
def State.startInstr (cycles : Nat) (s : State) : State :=
  State.countCycles cycles { s with pc := s.pc + 1#10 }

/-- `skip` (R13, R200): one more instruction is passed, in one more cycle (R320 note (2)). -/
def State.skip (s : State) : State :=
  State.countCycles 1 { s with pc := s.pc + 1#10 }

/-- Skip if the condition holds. -/
def State.skipIf (b : Bool) (s : State) : State :=
  if b then s.skip else s

/-- `pc <- target` (R13). -/
def State.jumpTo (target : ProgAddr) (s : State) : State :=
  { s with pc := target }

/-- The address of the executing instruction has low byte FFH, so that `npc` is in the next page (R65,
D7). Read while `pc` holds `npc`. -/
def State.atPageEnd (s : State) : Bool :=
  s.pc.setWidth 8 == 0x00#8

/-- The word at `pc`, decoded (R23). -/
def State.fetch (s : State) : Option Instr :=
  decode s.params.encoding (s.progRead s.pc)

/-! ## The stack register (10_state.md R24) -/

/-- Push `npc` and go to the target (R210). -/
def State.pushCall (target : ProgAddr) (s : State) : State :=
  { s with stack := s.pc, sp := 1, pc := target }

/-- Go to the return address held and drop it (R211). -/
def State.popReturn (s : State) : State :=
  { s with pc := s.stack, sp := 0 }

/-! ## The accumulator -/

/-- `ACC <- v` (R21). -/
def State.setAcc (v : Byte) (s : State) : State :=
  { s with acc := v }

/-! ## What every reset shares (60_exceptions.md R265, 70_reset_and_hazards.md R300 to R303) -/

/-- The marks are unknown after a reset and after HALT (R301, D16). Log 17. -/
def State.drawMarks (s : State) : State :=
  { s with wf1 := Config.wf1Draw s.drawIndex, wf2 := Config.wf2Draw s.drawIndex }

/-- Control goes to 000H with no return address held, in RUN mode, with the watchdog cleared; the marks
and EMI are unknown (R265, R43). Nothing is saved. Log 10, log 17. -/
def State.restart (s : State) : State :=
  State.drawMarks
    { s with pc := 0x000#10, sp := 0, mode := .run, wdt := 0, wsChanged := false,
             emi := Config.emiDraw s.drawIndex }

/-- The registers a chip reset initialises (R43, R303): WDTS, and the ports to input mode. -/
def State.initPorts (s : State) : State :=
  { s with wdts := 0x07#8, pa := 0xFF#8, pac := 0xFF#8, pb := 0b111#3, pbc := 0b111#3 }

/-- The general purpose RAM is lost: every byte is unknown from here on (D18). Log 21. -/
def State.loseRam (s : State) : State :=
  { s with ram := [], ramEpoch := s.ramEpoch + 1 }

/-- The RAM through a reset of the powered chip (D18): kept only under the named assumption. Log 21. -/
def State.ramThroughReset (s : State) : State :=
  if s.params.ramSurvivesReset then s else s.loseRam

/-! ## The pins (60_exceptions.md R276) -/

/-- What the chip drives on line PAi (R70, D20): the latch bit of an output, nothing on an input.
Log 37. -/
def State.pinA (i : Fin 8) (s : State) : Option Bool :=
  if s.pac.getLsbD i then none else some (s.pa.getLsbD i)

/-- What the chip drives on line PBi (R70, D20). Log 37. -/
def State.pinB (i : Fin 3) (s : State) : Option Bool :=
  if s.pbc.getLsbD i then none else some (s.pb.getLsbD i)

end Sys2Proof.Machine
end

