-- ==== Sys2Proof/Machine/Operands.lean ====
section
/-!
DEFINITION. The operand forms: the data memory behind `[m]` (20_memory.md R61 to R72), and the shapes that
instructions share (R76, 40_arithmetic.md R124). Every definition here runs inside an instruction's
meaning, where `pc` holds `npc`.
-/
namespace Sys2Proof.Machine

/-- What a data address names (R42, R61). -/
inductive Loc where
  /-- Location 00H reached through MP = 00H (R62): reads 00H, a write does nothing. -/
  | null
  | mp | acc | pcl | tblp | tblh | wdts | status
  | portA | portAControl | portB | portBControl
  /-- A byte of general purpose RAM (R71), by its address. -/
  | gpr (a : Nat)
  /-- An address at which nothing is implemented (R72). -/
  | absent (a : DataAddr)
deriving DecidableEq, Repr

/-- The map of the data memory without the indirection at 00H (R61, `DReadDirect` and `DWriteDirect`).
TBLP and TBLH stand at 07H and 08H (D3, log 4). -/
def Loc.direct (p : Params) (a : DataAddr) : Loc :=
  if a = 0x00#7 then .null
  else if a = 0x01#7 then .mp
  else if a = 0x05#7 then .acc
  else if a = 0x06#7 then .pcl
  else if a = 0x07#7 then .tblp
  else if a = 0x08#7 then .tblh
  else if a = 0x09#7 then .wdts
  else if a = 0x0A#7 then .status
  else if a = 0x12#7 then .portA
  else if a = 0x13#7 then .portAControl
  else if a = 0x14#7 then .portB
  else if a = 0x15#7 then .portBControl
  else if gprBase p ≤ a.toNat ∧ a.toNat < gprBase p + 32 then .gpr a.toNat
  else .absent a

/-- What `[m]` names (R61, R62): 00H goes through MP, once per instruction. Log 31. -/
def State.resolve (m : DataAddr) (s : State) : Loc :=
  if m = 0x00#7 then Loc.direct s.params s.mp else Loc.direct s.params m

/-! ## Ports (R70) -/

/-- The level at the port A pads: with pull-high resistors a pad nothing drives is at 1 (R276, D20).
Log 23. -/
def State.padLevelA (s : State) : BitVec 8 :=
  if s.params.options.pullHigh then s.input.padA ||| ~~~s.input.drivenA else s.input.padA

/-- The level at the port B pads. -/
def State.padLevelB (s : State) : BitVec 3 :=
  if s.params.options.pullHigh then s.input.padB ||| ~~~s.input.drivenB else s.input.padB

/-- `PortRead(A)` (R70): the pad of an input line, the latch of an output line. -/
def State.portReadA (s : State) : Byte :=
  (s.pac &&& s.padLevelA) ||| (~~~s.pac &&& s.pa)

/-- `PortRead(B)` (R70): bits 7..3 read 0. -/
def State.portReadB (s : State) : Byte :=
  0#5 ++ ((s.pbc &&& s.padLevelB) ||| (~~~s.pbc &&& s.pb))

/-! ## Reading and writing -/

/-- `DRead` of a location (R61); `none` where nothing is implemented. -/
def State.readLoc (l : Loc) (s : State) : Option Byte :=
  match l with
  | .null => some 0x00#8
  | .mp => some (1#1 ++ s.mp)
  | .acc => some s.acc
  | .pcl => some (s.pc.setWidth 8)
  | .tblp => some s.tblp
  | .tblh => some (Config.tblhUnused s.drawIndex ++ s.tblh)
  | .wdts => some s.wdts
  | .status => some s.statusByte
  | .portA => some s.portReadA
  | .portAControl => some s.pac
  | .portB => some s.portReadB
  | .portBControl => some (Config.pbcUnused s.drawIndex ++ s.pbc)
  | .gpr a => some (s.ramRead a)
  | .absent _ => none

/-- Load PCL (R65, R214): bits 9..8 of `npc` stay, one more cycle passes (R320 note (1)). -/
def State.loadPcl (v : Byte) (s : State) : State :=
  State.countCycles 1 { s with pc := s.pc.extractLsb' 8 2 ++ v }

/-- Write WDTS (R68). A change of WS2..WS0 is kept in mind until the next clear (D31); the counter is
not touched. Log 20. -/
def State.writeWdts (v : Byte) (s : State) : State :=
  { s with wdts := v, wsChanged := s.wsChanged || !(v.setWidth 3 == s.wdts.setWidth 3) }

/-- `DWrite` of a location (R61). -/
def State.writeLoc (l : Loc) (v : Byte) (s : State) : Result :=
  match l with
  | .null => .next s
  | .mp => .next { s with mp := v.setWidth 7 }
  | .acc => .next (s.setAcc v)
  | .pcl => if s.atPageEnd then .refused .pclWriteAtPageEnd else .next (s.loadPcl v)
  | .tblp => .next { s with tblp := v }
  | .tblh => .refused .tblhWrite
  | .wdts => .next (s.writeWdts v)
  | .status => .next (s.writeStatus v)
  | .portA => .next { s with pa := v }
  | .portAControl => .next { s with pac := v }
  | .portB => .next { s with pb := v.setWidth 3 }
  | .portBControl => .next { s with pbc := v.setWidth 3 }
  | .gpr a => .next (s.ramWrite a v)
  | .absent a => .refused (.unimplementedAddress a)

/-- The address to name in a refusal; only an unimplemented location has one. -/
def Loc.addr : Loc → DataAddr
  | .absent a => a
  | _ => 0x00#7

/-! ## The shapes instructions share -/

/-- Read the operand `[m]` and go on with its location and its byte (R76). -/
def withOperand (m : DataAddr) (s : State) (k : Loc → Byte → Result) : Result :=
  match s.readLoc (s.resolve m) with
  | some v => k (s.resolve m) v
  | none => .refused (.unimplementedAddress (s.resolve m).addr)

/-- The result and the flags go to ACC and STATUS. -/
def State.putAcc (o : AluOut) (s : State) : State :=
  (s.setAcc o.value).applyFlags o.flags

/-- The result goes to the location, then the flags to STATUS (R76, R124); a flag-affecting instruction
whose location is STATUS leaves the flags it affects free (R69, D11). Log 12. -/
def State.putLoc (l : Loc) (o : AluOut) (s : State) : Result :=
  onNext (s.writeLoc l o.value)
    (State.applyFlags (if l = .status then o.flags.raced s.drawIndex else o.flags))

/-- An instruction with source `[m]` and destination ACC. -/
def operandToAcc (f : State → Byte → AluOut) (m : DataAddr) (s : State) : Result :=
  let t := s.startInstr 1
  withOperand m t fun _ v => .next (t.putAcc (f t v))

/-- An instruction that reads `[m]` and writes it back. -/
def operandToMem (f : State → Byte → AluOut) (m : DataAddr) (s : State) : Result :=
  let t := s.startInstr 1
  withOperand m t fun l v => t.putLoc l (f t v)

/-- An instruction that writes `[m]` without reading it. -/
def valueToMem (f : State → AluOut) (m : DataAddr) (s : State) : Result :=
  let t := s.startInstr 1
  t.putLoc (t.resolve m) (f t)

/-- An instruction of ACC and an immediate byte, with destination ACC. -/
def immediateToAcc (f : State → AluOut) (s : State) : Result :=
  let t := s.startInstr 1
  .next (t.putAcc (f t))

/-- A skip on what `[m]` holds, that writes nothing. -/
def skipOnOperand (test : Byte → Bool) (m : DataAddr) (s : State) : Result :=
  let t := s.startInstr 1
  withOperand m t fun _ v => .next (t.skipIf (test v))

/-- A skip on a zero result, with the result to ACC. -/
def skipToAcc (f : Byte → Byte) (m : DataAddr) (s : State) : Result :=
  let t := s.startInstr 1
  withOperand m t fun _ v => .next ((t.setAcc (f v)).skipIf (f v == 0#8))

/-- A skip on a zero result, with the result to `[m]`; the spec refuses destination PCL (R206, D12).
Log 13. -/
def skipToMem (f : Byte → Byte) (m : DataAddr) (s : State) : Result :=
  let t := s.startInstr 1
  withOperand m t fun l v =>
    if l = .pcl then .refused .skipWithPclDestination
    else onNext (t.writeLoc l (f v)) (State.skipIf (f v == 0#8))

end Sys2Proof.Machine
end

