-- ==== Sys2Proof/Machine/Arithmetic.lean ====
section
/-!
DEFINITION. Arithmetic instructions (40_arithmetic.md R110 to R124).
-/
namespace Sys2Proof.Machine

/-- `ADD A,[m]` (R113). -/
def execAddA (m : DataAddr) (s : State) : Result :=
  operandToAcc (fun t v => add8 t.acc v false) m s

/-- `ADDM A,[m]` (R114). -/
def execAddM (m : DataAddr) (s : State) : Result :=
  operandToMem (fun t v => add8 t.acc v false) m s

/-- `ADD A,x` (R115). -/
def execAddI (x : Byte) (s : State) : Result :=
  immediateToAcc (fun t => add8 t.acc x false) s

/-- `ADC A,[m]` (R116). -/
def execAdcA (m : DataAddr) (s : State) : Result :=
  operandToAcc (fun t v => add8 t.acc v t.c) m s

/-- `ADCM A,[m]` (R117). -/
def execAdcM (m : DataAddr) (s : State) : Result :=
  operandToMem (fun t v => add8 t.acc v t.c) m s

/-- `SUB A,x` (R118). -/
def execSubI (x : Byte) (s : State) : Result :=
  immediateToAcc (fun t => sub8 t.acc x) s

/-- `SUB A,[m]` (R119). -/
def execSubA (m : DataAddr) (s : State) : Result :=
  operandToAcc (fun t v => sub8 t.acc v) m s

/-- `SUBM A,[m]` (R120): the minuend is ACC. -/
def execSubM (m : DataAddr) (s : State) : Result :=
  operandToMem (fun t v => sub8 t.acc v) m s

/-- `SBC A,[m]` (R121). -/
def execSbcA (m : DataAddr) (s : State) : Result :=
  operandToAcc (fun t v => sbc8 t.acc v t.c) m s

/-- `SBCM A,[m]` (R122). -/
def execSbcM (m : DataAddr) (s : State) : Result :=
  operandToMem (fun t v => sbc8 t.acc v t.c) m s

/-- `DAA [m]` (R123): the accumulator is adjusted, `[m]` is the destination only. -/
def execDaa (m : DataAddr) (s : State) : Result :=
  valueToMem (fun t => daa8 t.acc t.c t.ac (Config.daaCarry t.drawIndex)) m s

end Sys2Proof.Machine
end

