-- ==== Sys2Proof/Machine/BitOp.lean ====
section
/-!
DEFINITION. Bit operation instructions (45_bitop.md R190 to R192): a read and a write of the whole byte.
-/
namespace Sys2Proof.Machine

/-- `CLR [m].i` (R190). DESIGN CHOICE, unsafe, log 39: on port B with `i >= 3`, where corner case (e) of R190
says "no effect on state", the byte read is written back as its pseudocode, R192 and R312 have it, so the pad
levels of input lines go to the latch there too. -/
def execClrBit (m : DataAddr) (i : BitIndex) (s : State) : Result :=
  operandToMem (fun _ v => unflagged (clearBit v i)) m s

/-- `SET [m].i` (R191). On port B with `i >= 3` as `CLR [m].i`: DESIGN CHOICE, unsafe, log 39. -/
def execSetBit (m : DataAddr) (i : BitIndex) (s : State) : Result :=
  operandToMem (fun _ v => unflagged (insertBit v i)) m s

end Sys2Proof.Machine
end

