-- ==== Sys2Proof/Machine/Branch.lean ====
section
/-!
DEFINITION. Branch, skip, call and return instructions (46_branch.md R200 to R215).
-/
namespace Sys2Proof.Machine

/-- `JMP addr` (R201). -/
def execJmp (addr : ProgAddr) (s : State) : Result :=
  .next ((s.startInstr 2).jumpTo addr)

/-- `SZ [m]` (R202). -/
def execSz (m : DataAddr) (s : State) : Result :=
  skipOnOperand (fun v => v == 0#8) m s

/-- `SZA [m]` (R203): ACC is loaded whether or not the skip is taken (90_conflicts.md C6). -/
def execSza (m : DataAddr) (s : State) : Result :=
  skipToAcc (fun v => v) m s

/-- `SZ [m].i` (R204). -/
def execSzBit (m : DataAddr) (i : BitIndex) (s : State) : Result :=
  skipOnOperand (fun v => !v.getLsbD i.toNat) m s

/-- `SNZ [m].i` (R205). -/
def execSnzBit (m : DataAddr) (i : BitIndex) (s : State) : Result :=
  skipOnOperand (fun v => v.getLsbD i.toNat) m s

/-- `SIZ [m]` (R206). -/
def execSiz (m : DataAddr) (s : State) : Result :=
  skipToMem (fun v => v + 1#8) m s

/-- `SDZ [m]` (R207). -/
def execSdz (m : DataAddr) (s : State) : Result :=
  skipToMem (fun v => v - 1#8) m s

/-- `SIZA [m]` (R208): the store is unconditional (90_conflicts.md C7). -/
def execSiza (m : DataAddr) (s : State) : Result :=
  skipToAcc (fun v => v + 1#8) m s

/-- `SDZA [m]` (R209). -/
def execSdza (m : DataAddr) (s : State) : Result :=
  skipToAcc (fun v => v - 1#8) m s

/-- `CALL addr` (R210). Log 9. -/
def execCall (addr : ProgAddr) (s : State) : Result :=
  if s.sp = 1 then .fault .stackOverflow else .next ((s.startInstr 2).pushCall addr)

/-- `RET` (R211). Log 9. -/
def execRet (s : State) : Result :=
  if s.sp = 0 then .fault .stackUnderflow else .next (s.startInstr 2).popReturn

/-- `RET A,x` (R212). Log 9. -/
def execRetA (x : Byte) (s : State) : Result :=
  if s.sp = 0 then .fault .stackUnderflow else .next ((s.startInstr 2).popReturn.setAcc x)

/-- `RETI` (R213): as RET, and EMI is set. Log 9, log 10. -/
def execReti (s : State) : Result :=
  if s.sp = 0 then .fault .stackUnderflow
  else .next { (s.startInstr 2).popReturn with emi := true }

end Sys2Proof.Machine
end

