-- ==== Sys2Proof/Machine/DataMove.lean ====
section
/-!
DEFINITION. Data move instructions (44_datamove.md R180 to R183): no flag.
-/
namespace Sys2Proof.Machine

/-- `MOV A,[m]` (R180). -/
def execMovA (m : DataAddr) (s : State) : Result :=
  operandToAcc (fun _ v => unflagged v) m s

/-- `MOV [m],A` (R181): the destination is not read first. -/
def execMovM (m : DataAddr) (s : State) : Result :=
  valueToMem (fun t => unflagged t.acc) m s

/-- `MOV A,x` (R182). -/
def execMovI (x : Byte) (s : State) : Result :=
  immediateToAcc (fun _ => unflagged x) s

end Sys2Proof.Machine
end

