-- ==== Sys2Proof/Machine/IncDec.lean ====
section
/-!
DEFINITION. Increment and decrement instructions (42_incdec.md R150 to R154): Z and only Z.
-/
namespace Sys2Proof.Machine

/-- `INCA [m]` (R150). -/
def execInca (m : DataAddr) (s : State) : Result :=
  operandToAcc (fun _ v => zeroFlagged (v + 1#8)) m s

/-- `INC [m]` (R151). -/
def execInc (m : DataAddr) (s : State) : Result :=
  operandToMem (fun _ v => zeroFlagged (v + 1#8)) m s

/-- `DECA [m]` (R152). -/
def execDeca (m : DataAddr) (s : State) : Result :=
  operandToAcc (fun _ v => zeroFlagged (v - 1#8)) m s

/-- `DEC [m]` (R153). -/
def execDec (m : DataAddr) (s : State) : Result :=
  operandToMem (fun _ v => zeroFlagged (v - 1#8)) m s

end Sys2Proof.Machine
end

