-- ==== Sys2Proof/Machine/Logic.lean ====
section
/-!
DEFINITION. Logic instructions (41_logic.md R130 to R141): Z and only Z.
-/
namespace Sys2Proof.Machine

/-- `AND A,[m]` (R131). -/
def execAndA (m : DataAddr) (s : State) : Result :=
  operandToAcc (fun t v => zeroFlagged (t.acc &&& v)) m s

/-- `OR A,[m]` (R132). -/
def execOrA (m : DataAddr) (s : State) : Result :=
  operandToAcc (fun t v => zeroFlagged (t.acc ||| v)) m s

/-- `XOR A,[m]` (R133). -/
def execXorA (m : DataAddr) (s : State) : Result :=
  operandToAcc (fun t v => zeroFlagged (t.acc ^^^ v)) m s

/-- `ANDM A,[m]` (R134). -/
def execAndM (m : DataAddr) (s : State) : Result :=
  operandToMem (fun t v => zeroFlagged (t.acc &&& v)) m s

/-- `ORM A,[m]` (R135). -/
def execOrM (m : DataAddr) (s : State) : Result :=
  operandToMem (fun t v => zeroFlagged (t.acc ||| v)) m s

/-- `XORM A,[m]` (R136). -/
def execXorM (m : DataAddr) (s : State) : Result :=
  operandToMem (fun t v => zeroFlagged (t.acc ^^^ v)) m s

/-- `AND A,x` (R137). -/
def execAndI (x : Byte) (s : State) : Result :=
  immediateToAcc (fun t => zeroFlagged (t.acc &&& x)) s

/-- `OR A,x` (R138). -/
def execOrI (x : Byte) (s : State) : Result :=
  immediateToAcc (fun t => zeroFlagged (t.acc ||| x)) s

/-- `XOR A,x` (R139). -/
def execXorI (x : Byte) (s : State) : Result :=
  immediateToAcc (fun t => zeroFlagged (t.acc ^^^ x)) s

/-- `CPL [m]` (R140). -/
def execCpl (m : DataAddr) (s : State) : Result :=
  operandToMem (fun _ v => zeroFlagged (~~~v)) m s

/-- `CPLA [m]` (R141). -/
def execCpla (m : DataAddr) (s : State) : Result :=
  operandToAcc (fun _ v => zeroFlagged (~~~v)) m s

end Sys2Proof.Machine
end

