-- ==== Sys2Proof/Machine/Misc.lean ====
section
/-!
DEFINITION. Miscellaneous and system instructions (48_misc.md R240 to R250).
-/
namespace Sys2Proof.Machine

/-- `NOP` (R240). -/
def execNop (s : State) : Result :=
  .next (s.startInstr 1)

/-- `CLR [m]` (R241): the location is not read first. -/
def execClr (m : DataAddr) (s : State) : Result :=
  valueToMem (fun _ => unflagged 0x00#8) m s

/-- `SET [m]` (R242). -/
def execSet (m : DataAddr) (s : State) : Result :=
  valueToMem (fun _ => unflagged 0xFF#8) m s

/-- `TO <- 0; PDF <- 0`. -/
def State.clearPowerFlags (s : State) : State :=
  { s with tout := false, pdf := false }

/-- The clear instructions do something: the watchdog is enabled, or it is disabled and the argument
`WDTDIS_CLR_FLAGS` says that a completed clear still clears TO and PDF (R250, D15). Log 16. -/
def State.hearsClear (s : State) : Bool :=
  s.params.options.wdtEnable || s.params.wdtDisClrFlags

/-- A completed clear (R243 to R245): `wdt <- 0` where the watchdog is enabled (a disabled one has no
counter to clear, R250), TO and PDF in any case. Log 16. -/
def State.serviceWatchdog (s : State) : State :=
  if s.params.options.wdtEnable then s.clearWatchdog.clearPowerFlags else s.clearPowerFlags

/-- `CLR WDT` (R243, R250, D16). Log 16, log 17. -/
def execClrWdt (s : State) : Result :=
  let t := s.startInstr 1
  if t.hearsClear && decide (t.params.options.clrWdtTimes = .one) then .next t.serviceWatchdog
  else .next t

/-- `CLR WDT1` (R244, R250, D16): the second of the pair clears the watchdog and both marks.
Log 16, log 17. -/
def execClrWdt1 (s : State) : Result :=
  let t := s.startInstr 1
  if t.hearsClear && decide (t.params.options.clrWdtTimes = .two) then
    if t.wf2 then .next { t.serviceWatchdog with wf1 := false, wf2 := false }
    else .next { t with wf1 := true }
  else .next t

/-- `CLR WDT2` (R245, R250, D16). Log 16, log 17. -/
def execClrWdt2 (s : State) : Result :=
  let t := s.startInstr 1
  if t.hearsClear && decide (t.params.options.clrWdtTimes = .two) then
    if t.wf1 then .next { t.serviceWatchdog with wf1 := false, wf2 := false }
    else .next { t with wf2 := true }
  else .next t

/-- `SWAP [m]` (R246). -/
def execSwap (m : DataAddr) (s : State) : Result :=
  operandToMem (fun _ v => unflagged (swapNibbles v)) m s

/-- `SWAPA [m]` (R247). -/
def execSwapa (m : DataAddr) (s : State) : Result :=
  operandToAcc (fun _ v => unflagged (swapNibbles v)) m s

/-- `HALT` (R248): whatever the watchdog option (D15). The marks are unknown afterwards (D16).
Log 17. -/
def execHalt (s : State) : Result :=
  .next { (s.startInstr 1).clearWatchdog.drawMarks with pdf := true, tout := false, mode := .halt }

end Sys2Proof.Machine
end

