-- ==== Sys2Proof/Machine/Rotate.lean ====
section
/-!
DEFINITION. Rotate instructions (43_rotate.md R160 to R168): C only through carry, else no flag.
-/
namespace Sys2Proof.Machine

/-- `RRA [m]` (R160). -/
def execRra (m : DataAddr) (s : State) : Result :=
  operandToAcc (fun _ v => unflagged (ror8 v)) m s

/-- `RR [m]` (R161). -/
def execRr (m : DataAddr) (s : State) : Result :=
  operandToMem (fun _ v => unflagged (ror8 v)) m s

/-- `RRCA [m]` (R162). -/
def execRrca (m : DataAddr) (s : State) : Result :=
  operandToAcc (fun t v => rorc v t.c) m s

/-- `RRC [m]` (R163). -/
def execRrc (m : DataAddr) (s : State) : Result :=
  operandToMem (fun t v => rorc v t.c) m s

/-- `RLA [m]` (R164). -/
def execRla (m : DataAddr) (s : State) : Result :=
  operandToAcc (fun _ v => unflagged (rol8 v)) m s

/-- `RL [m]` (R165). -/
def execRl (m : DataAddr) (s : State) : Result :=
  operandToMem (fun _ v => unflagged (rol8 v)) m s

/-- `RLCA [m]` (R166). -/
def execRlca (m : DataAddr) (s : State) : Result :=
  operandToAcc (fun t v => rolc v t.c) m s

/-- `RLC [m]` (R167). -/
def execRlc (m : DataAddr) (s : State) : Result :=
  operandToMem (fun t v => rolc v t.c) m s

end Sys2Proof.Machine
end

