-- ==== Sys2Proof/Machine/TableRead.lean ====
section
/-!
DEFINITION. Table read instructions (47_tableread.md R230 to R233).
-/
namespace Sys2Proof.Machine

/-- Move the program word at `ta` to `[m]` and TBLH (R73, R230): the low byte to `[m]`, then bits 13..8
to TBLH. -/
def tableRead (ta : ProgAddr) (m : DataAddr) (t : State) : Result :=
  let w := t.progRead ta
  onNext (t.writeLoc (t.resolve m) (w.setWidth 8)) fun u => { u with tblh := w.extractLsb' 8 6 }

/-- `TABRDC [m]` (R231): the current page, which is not known at a page end (D7). Log 8. -/
def execTabrdc (m : DataAddr) (s : State) : Result :=
  let t := s.startInstr 2
  if t.atPageEnd then .refused .tableReadAtPageEnd
  else tableRead (t.pc.extractLsb' 8 2 ++ t.tblp) m t

/-- `TABRDL [m]` (R232): the last page. -/
def execTabrdl (m : DataAddr) (s : State) : Result :=
  let t := s.startInstr 2
  tableRead (0b11#2 ++ t.tblp) m t

end Sys2Proof.Machine
end

