-- ==== Sys2Proof/Machine/Dispatch.lean ====
section
/-!
DEFINITION. The dispatch of an instruction term to its meaning: one arm per constructor of `Instr`.
-/
namespace Sys2Proof.Machine

def exec (i : Instr) (s : State) : Host.Outcome State Fault Refusal :=
  match i with
  | .nop => Sys2Proof.Machine.execNop s
  | .clrWdt => Sys2Proof.Machine.execClrWdt s
  | .clrWdt1 => Sys2Proof.Machine.execClrWdt1 s
  | .clrWdt2 => Sys2Proof.Machine.execClrWdt2 s
  | .halt => Sys2Proof.Machine.execHalt s
  | .ret => Sys2Proof.Machine.execRet s
  | .reti => Sys2Proof.Machine.execReti s
  | .addA m => Sys2Proof.Machine.execAddA m s
  | .addM m => Sys2Proof.Machine.execAddM m s
  | .adcA m => Sys2Proof.Machine.execAdcA m s
  | .adcM m => Sys2Proof.Machine.execAdcM m s
  | .subA m => Sys2Proof.Machine.execSubA m s
  | .subM m => Sys2Proof.Machine.execSubM m s
  | .sbcA m => Sys2Proof.Machine.execSbcA m s
  | .sbcM m => Sys2Proof.Machine.execSbcM m s
  | .daa m => Sys2Proof.Machine.execDaa m s
  | .andA m => Sys2Proof.Machine.execAndA m s
  | .orA m => Sys2Proof.Machine.execOrA m s
  | .xorA m => Sys2Proof.Machine.execXorA m s
  | .andM m => Sys2Proof.Machine.execAndM m s
  | .orM m => Sys2Proof.Machine.execOrM m s
  | .xorM m => Sys2Proof.Machine.execXorM m s
  | .cpl m => Sys2Proof.Machine.execCpl m s
  | .cpla m => Sys2Proof.Machine.execCpla m s
  | .inca m => Sys2Proof.Machine.execInca m s
  | .inc m => Sys2Proof.Machine.execInc m s
  | .deca m => Sys2Proof.Machine.execDeca m s
  | .dec m => Sys2Proof.Machine.execDec m s
  | .rra m => Sys2Proof.Machine.execRra m s
  | .rr m => Sys2Proof.Machine.execRr m s
  | .rrca m => Sys2Proof.Machine.execRrca m s
  | .rrc m => Sys2Proof.Machine.execRrc m s
  | .rla m => Sys2Proof.Machine.execRla m s
  | .rl m => Sys2Proof.Machine.execRl m s
  | .rlca m => Sys2Proof.Machine.execRlca m s
  | .rlc m => Sys2Proof.Machine.execRlc m s
  | .movA m => Sys2Proof.Machine.execMovA m s
  | .movM m => Sys2Proof.Machine.execMovM m s
  | .sz m => Sys2Proof.Machine.execSz m s
  | .sza m => Sys2Proof.Machine.execSza m s
  | .siz m => Sys2Proof.Machine.execSiz m s
  | .sdz m => Sys2Proof.Machine.execSdz m s
  | .siza m => Sys2Proof.Machine.execSiza m s
  | .sdza m => Sys2Proof.Machine.execSdza m s
  | .tabrdc m => Sys2Proof.Machine.execTabrdc m s
  | .tabrdl m => Sys2Proof.Machine.execTabrdl m s
  | .clr m => Sys2Proof.Machine.execClr m s
  | .set m => Sys2Proof.Machine.execSet m s
  | .swap m => Sys2Proof.Machine.execSwap m s
  | .swapa m => Sys2Proof.Machine.execSwapa m s
  | .addI x => Sys2Proof.Machine.execAddI x s
  | .subI x => Sys2Proof.Machine.execSubI x s
  | .andI x => Sys2Proof.Machine.execAndI x s
  | .orI x => Sys2Proof.Machine.execOrI x s
  | .xorI x => Sys2Proof.Machine.execXorI x s
  | .movI x => Sys2Proof.Machine.execMovI x s
  | .retA x => Sys2Proof.Machine.execRetA x s
  | .clrBit m b => Sys2Proof.Machine.execClrBit m b s
  | .setBit m b => Sys2Proof.Machine.execSetBit m b s
  | .szBit m b => Sys2Proof.Machine.execSzBit m b s
  | .snzBit m b => Sys2Proof.Machine.execSnzBit m b s
  | .jmp addr => Sys2Proof.Machine.execJmp addr s
  | .call addr => Sys2Proof.Machine.execCall addr s

end Sys2Proof.Machine
end

