-- ==== Sys2Proof/Machine/Events.lean ====
section
/-!
DEFINITION. The events that change the state other than by an instruction (60_exceptions.md R263): the
resets, the watchdog time-out and the wake-up, and which of them acts at a boundary (R264).
-/
namespace Sys2Proof.Machine

/-- The events of R263. A low supply is a RES reset when the LVR is enabled (R279). -/
inductive Event where
  | powerOn
  | lowVoltage
  | resLow
  | wdtTimeout
  | wakeA
deriving DecidableEq, Repr

/-- Some port A line falls that may wake the chip (R275, D34): an input line whose option is enabled,
in HALT mode. Log 32. -/
def State.wakes (inp : Input) (s : State) : Bool :=
  decide (s.mode = .halt) && !(inp.fallA &&& s.params.options.paWake &&& s.pac == 0#8)

/-- The event that acts at this boundary (R264, D23, D24): the resets first; of a time-out and a wake-up
due together, the one the environment puts first. Log 25, log 26. -/
def State.pendingEvent (inp : Input) (s : State) : Option Event :=
  if inp.powerOn then some .powerOn
  else if inp.lowVoltage then some .lowVoltage
  else if inp.resLow then some .resLow
  else if s.wakes inp && (inp.wakeFirst || !s.wdtDue inp.wdtFire) then some .wakeA
  else if s.wdtDue inp.wdtFire then some .wdtTimeout
  else none

/-- `ResetPowerOn` (R301). -/
def State.powerOnReset (s : State) : State :=
  let n := s.drawIndex
  { s.restart.initPorts.loseRam with
      tout := false, pdf := false
      c := Config.flagAtPowerOn .c n, ac := Config.flagAtPowerOn .ac n
      z := Config.flagAtPowerOn .z n, ov := Config.flagAtPowerOn .ov n
      acc := Config.accAtPowerOn n, mp := Config.mpAtPowerOn n
      tblp := Config.tblpAtPowerOn n, tblh := Config.tblhAtPowerOn n
      stack := Config.stackAtPowerOn n }

/-- `ResetRES` (R301), from the RES pin or the LVR: in HALT mode TO = 0 and PDF = 1, else both stay. -/
def State.resReset (s : State) : State :=
  { s.restart.initPorts.ramThroughReset with
      tout := if s.mode = .halt then false else s.tout
      pdf := if s.mode = .halt then true else s.pdf }

/-- `WdtTimeout` (R272): a chip reset in RUN mode, the warm reset in HALT mode, where all but the program
counter and SP stays. -/
def State.timeoutReset (s : State) : State :=
  match s.mode with
  | .run => { s.restart.initPorts.ramThroughReset with tout := true }
  | .halt => { s.restart with tout := true }

/-- `WakeA` (R275): the core goes on with the instruction after HALT; nothing else changes. -/
def State.wakeUp (s : State) : State :=
  { s with mode := .run }

/-- An event acts (R263). A low supply with the LVR disabled is outside the spec (D24). Log 26. -/
def takeEvent (e : Event) (s : State) : Result :=
  match e with
  | .powerOn => .next s.powerOnReset
  | .lowVoltage => if s.params.options.lvrEnable then .next s.resReset else .refused .brownOut
  | .resLow => .next s.resReset
  | .wdtTimeout => .next s.timeoutReset
  | .wakeA => .next s.wakeUp

end Sys2Proof.Machine
end

