-- ==== Sys2Proof/Machine/Step.lean ====
section
/-!
DEFINITION. One step of the machine (10_state.md R23, 60_exceptions.md R263, R264, R274), and the placing
of one instruction where the next step fetches it.
-/
namespace Sys2Proof.Machine

/-- The core's part of a step: in RUN mode one instruction (R23), a word that spells none is a fault
(R95, R261); in HALT mode nothing (R274). Log 29. -/
def coreStep (s : State) : Host.Outcome State Fault Refusal :=
  match s.mode with
  | .halt => .next s
  | .run =>
    match s.fetch with
    | some i => exec i s
    | none => .fault .undefinedInstruction

/-- One step: the watchdog oscillator's ticks are counted, then an event that is due acts, and if none is
the core takes its part (R264). -/
def step (s : State) : Host.Outcome State Fault Refusal :=
  let t := s.countOscTicks s.input.oscTicks
  let r := match t.pendingEvent s.input with
    | some e => takeEvent e t
    | none => coreStep t
  onNext r State.passTime

/-- The state with a word placed where the next step fetches: program memory is loaded from outside the
machine (log 2). The next step runs it: the mode is RUN, the watchdog is not due, the input of the next
step holds no event. Log 38. -/
def State.withFetchWord (s : State) (_nbits w : Nat) : State :=
  { s with rom := Memory.write s.rom s.pc.toNat (BitVec.ofNat 14 w), mode := .run, wdt := 0,
           env := s.input.quiet :: s.env.tail }

end Sys2Proof.Machine
end

