-- ==== Sys2Proof/Safety.lean ====
section
/-!
DEFINITION. What counts as a sound state and a safe run, and the notions the claims use.
-/
namespace Sys2Proof.Machine

/-! ## Sound states -/

/-- The memories are in canonical form, the RAM lists only its 32 addresses (R35, R71), program memory
only its 1024 (R36, R60). -/
abbrev State.memoryWf (s : State) : Prop :=
  (Memory.wf s.ram ∧ ∀ cell ∈ s.ram, gprBase s.params ≤ cell.1 ∧ cell.1 < gprBase s.params + 32) ∧
    Memory.wf s.rom ∧ ∀ cell ∈ s.rom, cell.1 < 1024

/-- In HALT mode TO = 0 and PDF = 1, as the HALT instruction left them (R274, R301). -/
abbrev State.haltFlags (s : State) : Prop :=
  s.mode = .halt → s.tout = false ∧ s.pdf = true

/-- With the watchdog disabled nothing is counted and TO stays 0 (R268). -/
abbrev State.disabledWatchdogQuiet (s : State) : Prop :=
  s.params.options.wdtEnable = false → s.wdt = 0 ∧ s.tout = false

/-- In HALT mode a watchdog clocked by f_SYS/4 stands still at zero (R269, R274). -/
abbrev State.haltedClockStopped (s : State) : Prop :=
  s.mode = .halt → s.params.options.wdtClk = .fsysDiv4 → s.wdt = 0

/-- The invariant of the machine: the encoding meets R94, and the four properties above. -/
abbrev State.inv (s : State) : Prop :=
  s.params.encoding.lawful ∧ s.memoryWf ∧ s.haltFlags ∧ s.disabledWatchdogQuiet ∧ s.haltedClockStopped

/-! ## Runs -/

/-- A run of `n` steps, ended by the first fault or refusal. -/
def runFor (n : Nat) (s : State) : Result :=
  Host.Core.run Sys2Proof.core n s

/-- A run of `n` steps that meets no fault and no refusal. -/
def safeFor (n : Nat) (s : State) : Prop :=
  ∃ t, runFor n s = .next t

/-- The state at this step's boundary: the oscillator's ticks counted. -/
def State.atBoundary (s : State) : State :=
  s.countOscTicks s.input.oscTicks

/-- The environment's input `k` steps on (R41): laid down in the state, or beyond that the environment's own.
Log 23. -/
def State.inputAt (k : Nat) (s : State) : Input :=
  s.env[k]?.getD (Config.input.inputAt (s.time + k))

/-- The event that acts in this step (R263, R264). -/
def State.dueEvent (s : State) : Option Event :=
  s.atBoundary.pendingEvent s.input

/-! ## Operands -/

/-- The data address in an instruction's `m` field (R91, R93). -/
def dataOperand : Instr → Option DataAddr
  | .nop => none
  | .clrWdt => none
  | .clrWdt1 => none
  | .clrWdt2 => none
  | .halt => none
  | .ret => none
  | .reti => none
  | .addA m => some m
  | .addM m => some m
  | .adcA m => some m
  | .adcM m => some m
  | .subA m => some m
  | .subM m => some m
  | .sbcA m => some m
  | .sbcM m => some m
  | .daa m => some m
  | .andA m => some m
  | .orA m => some m
  | .xorA m => some m
  | .andM m => some m
  | .orM m => some m
  | .xorM m => some m
  | .cpl m => some m
  | .cpla m => some m
  | .inca m => some m
  | .inc m => some m
  | .deca m => some m
  | .dec m => some m
  | .rra m => some m
  | .rr m => some m
  | .rrca m => some m
  | .rrc m => some m
  | .rla m => some m
  | .rl m => some m
  | .rlca m => some m
  | .rlc m => some m
  | .movA m => some m
  | .movM m => some m
  | .sz m => some m
  | .sza m => some m
  | .siz m => some m
  | .sdz m => some m
  | .siza m => some m
  | .sdza m => some m
  | .tabrdc m => some m
  | .tabrdl m => some m
  | .clr m => some m
  | .set m => some m
  | .swap m => some m
  | .swapa m => some m
  | .addI _ => none
  | .subI _ => none
  | .andI _ => none
  | .orI _ => none
  | .xorI _ => none
  | .movI _ => none
  | .retA _ => none
  | .clrBit m _ => some m
  | .setBit m _ => some m
  | .szBit m _ => some m
  | .snzBit m _ => some m
  | .jmp _ => none
  | .call _ => none

/-- The byte `DRead(m)` gives the instruction that executes in `s` (R61); `none` where nothing is
implemented. -/
def State.operandByte (m : DataAddr) (s : State) : Option Byte :=
  (s.startInstr 1).readLoc (s.resolve m)

/-- The instruction that executes in `s` stands at an address with low byte FFH (R65, D7). -/
def State.standsAtPageEnd (s : State) : Bool :=
  s.pc.setWidth 8 == 0xFF#8

/-- `DWrite(m, v)` has a meaning for the instruction that executes in `s` (R61): an implemented location,
not TBLH (R67), and not PCL at a page end (R65). -/
def State.writable (m : DataAddr) (s : State) : Bool :=
  match s.resolve m with
  | .tblh => false
  | .absent _ => false
  | .pcl => !s.standsAtPageEnd
  | _ => true

/-- Cycles of an instruction as WDT clocks: they count when the watchdog is enabled and clocked by
f_SYS/4 (R269, R320). -/
def State.clocked (n : Nat) (s : State) : Nat :=
  if s.params.options.wdtEnable = true ∧ s.params.options.wdtClk = .fsysDiv4 then s.wdt + n else s.wdt

/-- The instruction executes: the byte `r` goes to `[m]` by `DWrite` (R61), and the state is then what
`after` makes of it. -/
def writesByte (i : Instr) (m : DataAddr) (r : Byte) (after : State → State) (s : State) : Prop :=
  ∃ u, (s.startInstr 1).writeLoc (s.resolve m) r = .next u ∧ exec i s = .next (after u)

/-- The `[m]` an instruction writes (R214, R124); `none` for an instruction that writes no `[m]`. -/
def memoryDestination : Instr → Option DataAddr
  | .nop => none
  | .clrWdt => none
  | .clrWdt1 => none
  | .clrWdt2 => none
  | .halt => none
  | .ret => none
  | .reti => none
  | .addA _ => none
  | .addM m => some m
  | .adcA _ => none
  | .adcM m => some m
  | .subA _ => none
  | .subM m => some m
  | .sbcA _ => none
  | .sbcM m => some m
  | .daa m => some m
  | .andA _ => none
  | .orA _ => none
  | .xorA _ => none
  | .andM m => some m
  | .orM m => some m
  | .xorM m => some m
  | .cpl m => some m
  | .cpla _ => none
  | .inca _ => none
  | .inc m => some m
  | .deca _ => none
  | .dec m => some m
  | .rra _ => none
  | .rr m => some m
  | .rrca _ => none
  | .rrc m => some m
  | .rla _ => none
  | .rl m => some m
  | .rlca _ => none
  | .rlc m => some m
  | .movA _ => none
  | .movM m => some m
  | .sz _ => none
  | .sza _ => none
  | .siz m => some m
  | .sdz m => some m
  | .siza _ => none
  | .sdza _ => none
  | .tabrdc m => some m
  | .tabrdl m => some m
  | .clr m => some m
  | .set m => some m
  | .swap m => some m
  | .swapa _ => none
  | .addI _ => none
  | .subI _ => none
  | .andI _ => none
  | .orI _ => none
  | .xorI _ => none
  | .movI _ => none
  | .retA _ => none
  | .clrBit m _ => some m
  | .setBit m _ => some m
  | .szBit _ _ => none
  | .snzBit _ _ => none
  | .jmp _ => none
  | .call _ => none

/-- The rows of the flag table (R26). -/
inductive FlagRow where
  /-- Z, C, AC and OV. -/
  | arithmetic
  | carryOnly
  | zeroOnly
  /-- TO and PDF. -/
  | power
  | noFlag
deriving DecidableEq, Repr

/-- The row of an instruction (R26). -/
def flagRow : Instr → FlagRow
  | .nop => .noFlag
  | .clrWdt => .power
  | .clrWdt1 => .power
  | .clrWdt2 => .power
  | .halt => .power
  | .ret => .noFlag
  | .reti => .noFlag
  | .addA _ => .arithmetic
  | .addM _ => .arithmetic
  | .adcA _ => .arithmetic
  | .adcM _ => .arithmetic
  | .subA _ => .arithmetic
  | .subM _ => .arithmetic
  | .sbcA _ => .arithmetic
  | .sbcM _ => .arithmetic
  | .daa _ => .carryOnly
  | .andA _ => .zeroOnly
  | .orA _ => .zeroOnly
  | .xorA _ => .zeroOnly
  | .andM _ => .zeroOnly
  | .orM _ => .zeroOnly
  | .xorM _ => .zeroOnly
  | .cpl _ => .zeroOnly
  | .cpla _ => .zeroOnly
  | .inca _ => .zeroOnly
  | .inc _ => .zeroOnly
  | .deca _ => .zeroOnly
  | .dec _ => .zeroOnly
  | .rra _ => .noFlag
  | .rr _ => .noFlag
  | .rrca _ => .carryOnly
  | .rrc _ => .carryOnly
  | .rla _ => .noFlag
  | .rl _ => .noFlag
  | .rlca _ => .carryOnly
  | .rlc _ => .carryOnly
  | .movA _ => .noFlag
  | .movM _ => .noFlag
  | .sz _ => .noFlag
  | .sza _ => .noFlag
  | .siz _ => .noFlag
  | .sdz _ => .noFlag
  | .siza _ => .noFlag
  | .sdza _ => .noFlag
  | .tabrdc _ => .noFlag
  | .tabrdl _ => .noFlag
  | .clr _ => .noFlag
  | .set _ => .noFlag
  | .swap _ => .noFlag
  | .swapa _ => .noFlag
  | .addI _ => .arithmetic
  | .subI _ => .arithmetic
  | .andI _ => .zeroOnly
  | .orI _ => .zeroOnly
  | .xorI _ => .zeroOnly
  | .movI _ => .noFlag
  | .retA _ => .noFlag
  | .clrBit _ _ => .noFlag
  | .setBit _ _ => .noFlag
  | .szBit _ _ => .noFlag
  | .snzBit _ _ => .noFlag
  | .jmp _ => .noFlag
  | .call _ => .noFlag

/-- The instructions that skip on a condition (R200). -/
def isSkip : Instr → Bool
  | .sz _ | .sza _ | .siz _ | .sdz _ | .siza _ | .sdza _ | .szBit _ _ | .snzBit _ _ => true
  | .nop => false
  | .clrWdt => false
  | .clrWdt1 => false
  | .clrWdt2 => false
  | .halt => false
  | .ret => false
  | .reti => false
  | .addA _ => false
  | .addM _ => false
  | .adcA _ => false
  | .adcM _ => false
  | .subA _ => false
  | .subM _ => false
  | .sbcA _ => false
  | .sbcM _ => false
  | .daa _ => false
  | .andA _ => false
  | .orA _ => false
  | .xorA _ => false
  | .andM _ => false
  | .orM _ => false
  | .xorM _ => false
  | .cpl _ => false
  | .cpla _ => false
  | .inca _ => false
  | .inc _ => false
  | .deca _ => false
  | .dec _ => false
  | .rra _ => false
  | .rr _ => false
  | .rrca _ => false
  | .rrc _ => false
  | .rla _ => false
  | .rl _ => false
  | .rlca _ => false
  | .rlc _ => false
  | .movA _ => false
  | .movM _ => false
  | .tabrdc _ => false
  | .tabrdl _ => false
  | .clr _ => false
  | .set _ => false
  | .swap _ => false
  | .swapa _ => false
  | .addI _ => false
  | .subI _ => false
  | .andI _ => false
  | .orI _ => false
  | .xorI _ => false
  | .movI _ => false
  | .retA _ => false
  | .clrBit _ _ => false
  | .setBit _ _ => false
  | .jmp _ => false
  | .call _ => false

/-- The cycles of an instruction without its skip or PCL delay (R320). -/
def baseCycles : Instr → Nat
  | .jmp _ | .call _ | .ret | .retA _ | .reti | .tabrdc _ | .tabrdl _ => 2
  | .nop => 1
  | .clrWdt => 1
  | .clrWdt1 => 1
  | .clrWdt2 => 1
  | .halt => 1
  | .addA _ => 1
  | .addM _ => 1
  | .adcA _ => 1
  | .adcM _ => 1
  | .subA _ => 1
  | .subM _ => 1
  | .sbcA _ => 1
  | .sbcM _ => 1
  | .daa _ => 1
  | .andA _ => 1
  | .orA _ => 1
  | .xorA _ => 1
  | .andM _ => 1
  | .orM _ => 1
  | .xorM _ => 1
  | .cpl _ => 1
  | .cpla _ => 1
  | .inca _ => 1
  | .inc _ => 1
  | .deca _ => 1
  | .dec _ => 1
  | .rra _ => 1
  | .rr _ => 1
  | .rrca _ => 1
  | .rrc _ => 1
  | .rla _ => 1
  | .rl _ => 1
  | .rlca _ => 1
  | .rlc _ => 1
  | .movA _ => 1
  | .movM _ => 1
  | .sz _ => 1
  | .sza _ => 1
  | .siz _ => 1
  | .sdz _ => 1
  | .siza _ => 1
  | .sdza _ => 1
  | .clr _ => 1
  | .set _ => 1
  | .swap _ => 1
  | .swapa _ => 1
  | .addI _ => 1
  | .subI _ => 1
  | .andI _ => 1
  | .orI _ => 1
  | .xorI _ => 1
  | .movI _ => 1
  | .clrBit _ _ => 1
  | .setBit _ _ => 1
  | .szBit _ _ => 1
  | .snzBit _ _ => 1

/-! ## Results in whole numbers (R110, R111) -/

/-- The state after an instruction of one cycle with destination ACC. -/
def State.accGets (r : Byte) (s : State) : State :=
  { s with pc := s.pc + 1#10, wdt := s.clocked 1, acc := r }

/-- The same, with Z from the result. -/
def State.accGetsZero (r : Byte) (s : State) : State :=
  { s.accGets r with z := decide (r = 0#8) }

/-- The flags C, AC, Z and OV of `src`, in `u`. -/
def State.copyFlags (src u : State) : State :=
  { u with c := src.c, ac := src.ac, z := src.z, ov := src.ov }

/-- After `ACC + v + k`: C the carry out of the byte, AC the carry out of the low nibble, Z the zero
result, OV the two's-complement overflow. -/
def State.afterAdd (v : Byte) (k : Bool) (s : State) : State :=
  let r := s.acc + v + BitVec.ofNat 8 k.toNat
  { s.accGets r with
      c := decide (256 ≤ s.acc.toNat + v.toNat + k.toNat)
      ac := decide (16 ≤ s.acc.toNat % 16 + v.toNat % 16 + k.toNat)
      z := decide (r = 0#8)
      ov := decide (r.toInt ≠ s.acc.toInt + v.toInt + k.toNat) }

/-- After `ACC - v - b`, where `b` is the borrow that comes in: C says that no borrow occurred, AC that
none came from the high nibble, Z the zero result, OV the two's-complement overflow. -/
def State.afterSub (v : Byte) (b : Bool) (s : State) : State :=
  let r := s.acc - v - BitVec.ofNat 8 b.toNat
  { s.accGets r with
      c := decide (v.toNat + b.toNat ≤ s.acc.toNat)
      ac := decide (v.toNat % 16 + b.toNat ≤ s.acc.toNat % 16)
      z := decide (r = 0#8)
      ov := decide (r.toInt ≠ s.acc.toInt - v.toInt - b.toNat) }

/-- The state after a skip instruction whose condition is `b`. -/
def State.afterSkip (b : Bool) (s : State) : State :=
  { s with pc := if b then s.pc + 2#10 else s.pc + 1#10
           wdt := s.clocked (if b then 2 else 1) }

/-- The state after a two-cycle control transfer to a target. -/
def State.transferTo (target : ProgAddr) (s : State) : State :=
  { s with pc := target, wdt := s.clocked 2 }

/-- The bits 9..8 of an address with another low byte. -/
def inPageOf (a : ProgAddr) (b : Byte) : ProgAddr :=
  BitVec.ofNat 10 (256 * (a.toNat / 256) + b.toNat)

end Sys2Proof.Machine
end

