-- ==== Sys2Proof/Certificates/Slice0/Obligations.lean ====
section
/-!
DEFINITION. The statements for the provers. `R<n>` are the rules of `spec/`, `D<n>` the decisions of
92_eei_decisions.md, "log <n>" the assumption log. Where a statement rests on a decision or on the model's
choice, its docstring says so.
-/
open Sys2Proof Sys2Proof.Machine

/-! ## Encoding -/

/-- R94 (b), (d), decision D1 (log 1): with any encoding that meets R94, every term has exactly one word,
`encode` finds it, and it decodes to the term. -/
def Obligations.EveryTermDecodesFromItsOneWord : Prop :=
  ∀ enc : Encoding, enc.wf = true → enc.complete → ∀ i : Instr,
    ∃ w, encode enc i = some w ∧ decode enc w = some i ∧ ∀ w', decode enc w' = some i → w' = w

/-- R94 (b), decision D1 (log 1): a word that decodes is the word its term encodes to; the encoding need
not be complete. -/
def Obligations.EveryDecodedWordIsItsTermsWord : Prop :=
  ∀ enc : Encoding, enc.wf = true → ∀ w i, decode enc w = some i → encode enc i = some w

/-- R94 (c), R91: the low ten bits of a word of JMP or CALL are its target. -/
def Obligations.JumpAndCallWordsHoldTheirTarget : Prop :=
  ∀ enc : Encoding, enc.wf = true → ∀ (w : Word14) (a : ProgAddr),
    (decode enc w = some (.jmp a) ∨ decode enc w = some (.call a)) → a = w.setWidth 10

/-- R91, decision D1 (log 1): the words of JMP 2A5H and CALL 003H with any two different opcode fields,
and a word beside them that spells nothing. -/
def Obligations.WrittenJumpAndCallWordsDecode : Prop :=
  ∀ o p q : BitVec 4, o ≠ p → q ≠ o → q ≠ p →
    let enc : Encoding := [(o ++ 0x2A5#10, .jmp 0x2A5#10), (p ++ 0x003#10, .call 0x003#10)]
    enc.wf = true ∧ decode enc (o ++ 0x2A5#10) = some (.jmp 0x2A5#10) ∧
      decode enc (p ++ 0x003#10) = some (.call 0x003#10) ∧ decode enc (q ++ 0x003#10) = none

/-! ## The step -/

/-- R23 (the order of an event and an instruction is decision D23, log 25): in RUN mode with no event due,
a step is the decoded instruction, executed after the oscillator's ticks are counted; then the input is
used up. -/
def Obligations.StepRunsTheDecodedInstruction : Prop :=
  ∀ (s : State) (i : Instr), s.mode = .run → s.dueEvent = none →
    decode s.params.encoding (s.progRead s.pc) = some i →
      step s = onNext (exec i s.atBoundary) State.passTime

/-- R95, R261, R274, R264 (decisions D10 and D23, log 11 and log 25): a due event acts in place of an
instruction; with none due a word that spells no instruction ends the run in RUN mode, and in HALT mode the
core does nothing: only the oscillator's ticks, the input and the index of the step go on (log 29). -/
def Obligations.StepWithoutADecodedInstruction : Prop :=
  ∀ s : State,
    (∀ e, s.dueEvent = some e → step s = onNext (takeEvent e s.atBoundary) State.passTime) ∧
    (s.mode = .run → s.dueEvent = none → decode s.params.encoding (s.progRead s.pc) = none →
      step s = .fault .undefinedInstruction) ∧
    (s.mode = .halt → s.dueEvent = none →
      step s = .next { s with wdt := s.atBoundary.wdt, env := s.env.tail, time := s.time + 1 })

/-- The model's choice (log 2, log 38): a word placed by `withFetchWord` is the instruction the very next
step runs. -/
def Obligations.PlacedWordRunsNext : Prop :=
  ∀ (s : State) (nbits w : Nat) (i : Instr),
    decode s.params.encoding (BitVec.ofNat 14 w) = some i →
      step (s.withFetchWord nbits w) = onNext (exec i (s.withFetchWord nbits w)) State.passTime

/-! ## Invariants -/

/-- R94, R35, R36, R268, R269, R274: every step keeps the encoding one that meets R94, the memories in
canonical form and in their ranges, TO = 0 and PDF = 1 in HALT mode, a disabled watchdog at zero with
TO = 0, and a watchdog on f_SYS/4 at zero in HALT mode. The list form of memory and of the encoding is the
model's choice (log 1, log 2, log 21). -/
def Obligations.EveryStepKeepsTheInvariant : Prop :=
  ∀ s t : State, s.inv → step s = .next t → t.inv

/-- The state after reset has the invariant; the chip's encoding, though unknown, meets R94 among it. -/
def Obligations.ResetHasTheInvariant : Prop :=
  State.reset.inv

/-- R36, R9, decision D28: no step changes program memory, the code options or another argument. -/
def Obligations.NoStepChangesProgramOrOptions : Prop :=
  ∀ s t : State, step s = .next t → t.rom = s.rom ∧ t.params = s.params

/-! ## The data memory -/

/-- R42, R61, R72 (the places of TBLP and TBLH are decision D3, log 4; refusing the rest is D5, log 6):
an address with no named location outside the 32 RAM bytes is unimplemented, and no other is. -/
def Obligations.UnimplementedAddressesAreThoseOutsideTheMap : Prop :=
  ∀ (s : State) (a : DataAddr),
    (∃ b, Loc.direct s.params a = .absent b) ↔
      ((0x02 ≤ a.toNat ∧ a.toNat ≤ 0x04 ∨ 0x0B ≤ a.toNat ∧ a.toNat ≤ 0x11 ∨ 0x16 ≤ a.toNat) ∧
        ¬(gprBase s.params ≤ a.toNat ∧ a.toNat ≤ gprBase s.params + 31))

/-- R62: `[00H]` is the location MP points to; through MP = 00H it reads 00H and a write does nothing. That
special registers are reached so is decision D33 (log 31). -/
def Obligations.LocationZeroGoesThroughMp : Prop :=
  ∀ (s : State) (v : Byte),
    (s.mp ≠ 0x00#7 → s.resolve 0x00#7 = s.resolve s.mp) ∧
    (s.mp = 0x00#7 → s.readLoc (s.resolve 0x00#7) = some 0x00#8 ∧
      s.writeLoc (s.resolve 0x00#7) v = .next s)

/-- R63: `DRead(01H)` has bit 7 set above MP, a write keeps the lower seven bits and touches nothing
else. -/
def Obligations.MpReadsBitSevenAsOne : Prop :=
  ∀ (s : State) (v : Byte),
    (∃ b, s.readLoc (s.resolve 0x01#7) = some b ∧ b.toNat = 128 + s.mp.toNat) ∧
    s.writeLoc (s.resolve 0x01#7) v = .next { s with mp := BitVec.ofNat 7 (v.toNat % 128) }

/-- R69 without its last case: STATUS reads `00 TO PDF OV Z AC C`; a write sets C, AC, Z and OV from bits
0 to 3 and nothing else, TO and PDF among it. -/
def Obligations.StatusReadsSixFlagsAndTakesFour : Prop :=
  ∀ (s : State) (v : Byte),
    (∃ b, s.readLoc (s.resolve 0x0A#7) = some b ∧
      b.toNat = s.c.toNat + 2 * s.ac.toNat + 4 * s.z.toNat + 8 * s.ov.toNat + 16 * s.pdf.toNat +
        32 * s.tout.toNat) ∧
    s.writeLoc (s.resolve 0x0A#7) v = .next
      { s with c := v.getLsbD 0, ac := v.getLsbD 1, z := v.getLsbD 2, ov := v.getLsbD 3 }

/-- R70, R276: a port read gives, line by line, the pad of an input and the latch of an output, and 0 in
bits 7..3 of port B; with pull-high resistors a pad nothing drives is at 1 (D20, log 23). A write goes to
the latch. -/
def Obligations.PortsReadPadsOfInputsAndLatchesOfOutputs : Prop :=
  ∀ (s : State) (v : Byte),
    (∃ b, s.readLoc (s.resolve 0x12#7) = some b ∧ ∀ i : Nat, i < 8 → b.getLsbD i =
      if s.pac.getLsbD i = true then
        s.input.padA.getLsbD i || (s.params.options.pullHigh && !s.input.drivenA.getLsbD i)
      else s.pa.getLsbD i) ∧
    (∃ b, s.readLoc (s.resolve 0x14#7) = some b ∧
      (∀ i : Nat, i < 3 → b.getLsbD i =
        if s.pbc.getLsbD i = true then
          s.input.padB.getLsbD i || (s.params.options.pullHigh && !s.input.drivenB.getLsbD i)
        else s.pb.getLsbD i) ∧
      ∀ i : Nat, 3 ≤ i → b.getLsbD i = false) ∧
    s.writeLoc (s.resolve 0x12#7) v = .next { s with pa := v } ∧
    s.writeLoc (s.resolve 0x14#7) v = .next { s with pb := v.setWidth 3 }

/-- R68, R66, R64 and the control registers of R70: what the other registers read as, and that a write
sets the register alone. The places of TBLP and TBLH are decision D3 (log 4), that a write of TBLH is
refused is D13 (log 14), the free bits of TBLH and PBC are D14 (log 15), the note of a changed prescaler is
the model's (D31, log 20). -/
def Obligations.OtherRegistersReadBackWhatWasWritten : Prop :=
  ∀ (s : State) (v : Byte),
    s.readLoc (s.resolve 0x05#7) = some s.acc ∧
    s.writeLoc (s.resolve 0x05#7) v = .next { s with acc := v } ∧
    s.readLoc (s.resolve 0x07#7) = some s.tblp ∧
    s.writeLoc (s.resolve 0x07#7) v = .next { s with tblp := v } ∧
    (∃ b, s.readLoc (s.resolve 0x08#7) = some b ∧ b.setWidth 6 = s.tblh) ∧
    s.writeLoc (s.resolve 0x08#7) v = .refused .tblhWrite ∧
    s.readLoc (s.resolve 0x09#7) = some s.wdts ∧
    (∃ d, s.writeLoc (s.resolve 0x09#7) v = .next { s with wdts := v, wsChanged := d } ∧
      (d = true ↔ s.wsChanged = true ∨ v.toNat % 8 ≠ s.wdts.toNat % 8)) ∧
    s.readLoc (s.resolve 0x13#7) = some s.pac ∧
    s.writeLoc (s.resolve 0x13#7) v = .next { s with pac := v } ∧
    (∃ b, s.readLoc (s.resolve 0x15#7) = some b ∧ b.setWidth 3 = s.pbc) ∧
    s.writeLoc (s.resolve 0x15#7) v = .next { s with pbc := v.setWidth 3 }

/-- R71 (the range is decision D4, log 5): a RAM byte reads back what was last written to it, every other
RAM byte reads as before, and no register changes. -/
def Obligations.RamKeepsWhatIsWritten : Prop :=
  ∀ (s : State) (m : DataAddr) (v : Byte), m ≠ 0x00#7 →
    gprBase s.params ≤ m.toNat → m.toNat < gprBase s.params + 32 →
      ∃ t, s.writeLoc (s.resolve m) v = .next t ∧ t.readLoc (t.resolve m) = some v ∧
        (∀ a, a ≠ m.toNat → t.ramRead a = s.ramRead a) ∧ t = { s with ram := t.ram }

/-- R72, R67, R124 (decisions D5 and D13, log 6 and log 14): every instruction with an `[m]` that names
nothing implemented is refused, and every instruction that writes `[m]` is refused at TBLH. Only TABRDC at a
page end is left to another statement, which refuses it for that (log 8). -/
def Obligations.AbsentOperandsAndTblhWritesAreRefused : Prop :=
  ∀ (s : State) (i : Instr) (m : DataAddr), (i = .tabrdc m → s.standsAtPageEnd = false) →
    (∀ a, dataOperand i = some m → s.resolve m = .absent a →
      exec i s = .refused (.unimplementedAddress a)) ∧
    (memoryDestination i = some m → s.resolve m = .tblh → exec i s = .refused .tblhWrite)

/-- R65, R214, R231, R206, R207 (decisions D7 and D12, log 8 and log 13): SIZ and SDZ on PCL are refused
anywhere; at an address with low byte FFH TABRDC is refused and so is every other write of PCL. -/
def Obligations.PageEndAndSkipOnPclAreRefused : Prop :=
  ∀ (s : State) (i : Instr) (m : DataAddr),
    (s.resolve m = .pcl → exec (.siz m) s = .refused .skipWithPclDestination ∧
      exec (.sdz m) s = .refused .skipWithPclDestination) ∧
    (s.standsAtPageEnd = true → exec (.tabrdc m) s = .refused .tableReadAtPageEnd ∧
      (s.resolve m = .pcl → memoryDestination i = some m → i ≠ .siz m → i ≠ .sdz m → i ≠ .tabrdc m →
        exec i s = .refused .pclWriteAtPageEnd))

/-! ## Arithmetic -/

/-- R110: the adder's byte is the sum modulo 256, and its flags are the carry out of bit 7, the carry out
of bit 3, the two's-complement overflow, and whether the byte is zero. -/
def Obligations.AdderGivesSumCarriesOverflowAndZero : Prop :=
  ∀ (a b : Byte) (k : Bool), ∃ r : Byte,
    r.toNat = (a.toNat + b.toNat + k.toNat) % 256 ∧
    add8 a b k =
      { value := r
        flags :=
          { c := some (decide (256 ≤ a.toNat + b.toNat + k.toNat))
            ac := some (decide (16 ≤ a.toNat % 16 + b.toNat % 16 + k.toNat))
            z := some (decide (r = 0#8))
            ov := some (decide (r.toInt ≠ a.toInt + b.toInt + k.toNat)) } }

/-- R111: subtraction is the addition of the complement, flags and all; it gives the difference modulo
256, C says that no borrow occurred, AC that none came from the high nibble, and an incoming carry of 0
subtracts one more. -/
def Obligations.SubtractionSetsCarryWhenNoBorrow : Prop :=
  ∀ (a b : Byte) (k : Bool),
    sub8 a b = add8 a (~~~b) true ∧ sbc8 a b k = add8 a (~~~b) k ∧
    (sub8 a b).value = a - b ∧ (sub8 a b).flags.c = some (decide (b.toNat ≤ a.toNat)) ∧
    (sub8 a b).flags.ac = some (decide (b.toNat % 16 ≤ a.toNat % 16)) ∧
    (sbc8 a b k).value = a - b - BitVec.ofNat 8 (!k).toNat ∧
    (sbc8 a b k).flags.c = some (decide (b.toNat + (!k).toNat ≤ a.toNat)) ∧
    (sbc8 a b k).flags.ac = some (decide (b.toNat % 16 + (!k).toNat ≤ a.toNat % 16))

/-- R113, R115, R116, R118, R119, R121 (the wrap of the program counter is decision D19, log 22): the
additions and subtractions with destination ACC complete with the result in ACC and the four flags of it;
all else stays. -/
def Obligations.AddAndSubtractIntoTheAccumulator : Prop :=
  ∀ (s : State) (m : DataAddr) (v : Byte),
    exec (.addI v) s = .next (s.afterAdd v false) ∧ exec (.subI v) s = .next (s.afterSub v false) ∧
    (s.operandByte m = some v →
      exec (.addA m) s = .next (s.afterAdd v false) ∧ exec (.adcA m) s = .next (s.afterAdd v s.c) ∧
      exec (.subA m) s = .next (s.afterSub v false) ∧ exec (.sbcA m) s = .next (s.afterSub v (!s.c)))

/-- R114, R117, R120, R122, R124 (D19, log 22): ADDM, ADCM, SUBM and SBCM complete at every location that
can be written but STATUS: the result is written there and the four flags are those of it. -/
def Obligations.ArithmeticIntoMemory : Prop :=
  ∀ (s : State) (m : DataAddr) (v : Byte),
    s.operandByte m = some v → s.writable m = true → s.resolve m ≠ .status →
      writesByte (.addM m) m (s.afterAdd v false).acc (s.afterAdd v false).copyFlags s ∧
      writesByte (.adcM m) m (s.afterAdd v s.c).acc (s.afterAdd v s.c).copyFlags s ∧
      writesByte (.subM m) m (s.afterSub v false).acc (s.afterSub v false).copyFlags s ∧
      writesByte (.sbcM m) m (s.afterSub v (!s.c)).acc (s.afterSub v (!s.c)).copyFlags s

/-- R123 (D19, log 22): DAA completes at every location that can be written but STATUS, writes there the
accumulator adjusted nibble by nibble, and of the flags only C, which it never clears; `[m]` is not read.
`ac1` is the carry between the nibbles. Where the low nibble is over 9 and AC is set it may be 0 or 1
(D25, log 27). -/
def Obligations.DaaAdjustsTheAccumulatorIntoMemory : Prop :=
  ∀ (s : State) (m : DataAddr), s.writable m = true → s.resolve m ≠ .status →
    let lo := s.acc.toNat % 16
    let hi := s.acc.toNat / 16
    ∃ ac1 : Nat, ac1 ≤ 1 ∧
      (¬(9 < lo ∧ s.ac = true) → ac1 = if 9 < lo then 1 else 0) ∧
      writesByte (.daa m) m
        (BitVec.ofNat 8 (16 * (if 9 < hi + ac1 ∨ s.c = true then (hi + 6 + ac1) % 16 else (hi + ac1) % 16) +
          (if 9 < lo ∨ s.ac = true then (lo + 6) % 16 else lo)))
        (fun u => { u with c := s.c || decide (9 < hi + ac1) }) s

/-- R123: after the addition of two decimal digits pairs, with or without a carry in, DAA gives the
decimal sum and C its hundred, whatever the open carry of D25 is (its corner cannot be reached). -/
def Obligations.DaaCorrectsDecimalAddition : Prop :=
  ∀ (x y : Nat) (a b : Byte) (k corner : Bool), x < 100 → y < 100 →
    a.toNat = 16 * (x / 10) + x % 10 → b.toNat = 16 * (y / 10) + y % 10 →
      ∀ c ac, (add8 a b k).flags.c = some c → (add8 a b k).flags.ac = some ac →
        let n := x + y + k.toNat
        (daa8 (add8 a b k).value c ac corner).value.toNat = 16 * (n % 100 / 10) + n % 10 ∧
        (daa8 (add8 a b k).value c ac corner).flags.c = some (decide (100 ≤ n))

/-- R69, R124 (decision D11, log 12; D19, log 22): an instruction that affects flags and writes STATUS
completes; the flags it affects are unknown, the other ones of C, AC, Z and OV take the data bits, TO and
PDF stay, and nothing else changes. -/
def Obligations.FlagWritersOnStatusLeaveTheirFlagsOpen : Prop :=
  ∀ (s : State) (m : DataAddr), s.resolve m = .status →
    (∀ i ∈ ([.addM m, .adcM m, .subM m, .sbcM m] : List Instr), ∃ c ac z ov,
      exec i s = .next { s with pc := s.pc + 1#10, wdt := s.clocked 1, c := c, ac := ac, z := z, ov := ov }) ∧
    (∀ p ∈ ([(.andM m, s.acc &&& s.statusByte), (.orM m, s.acc ||| s.statusByte),
        (.xorM m, s.acc ^^^ s.statusByte), (.cpl m, ~~~s.statusByte), (.inc m, s.statusByte + 1#8),
        (.dec m, s.statusByte - 1#8)] : List (Instr × Byte)), ∃ z,
      exec p.1 s = .next { s with pc := s.pc + 1#10, wdt := s.clocked 1, c := p.2.getLsbD 0,
                                  ac := p.2.getLsbD 1, z := z, ov := p.2.getLsbD 3 }) ∧
    (∃ c, exec (.rrc m) s = .next { s with pc := s.pc + 1#10, wdt := s.clocked 1, c := c, ac := s.z,
                                           z := s.ov, ov := s.pdf }) ∧
    (∃ c, exec (.rlc m) s = .next { s with pc := s.pc + 1#10, wdt := s.clocked 1, c := c, ac := s.c,
                                           z := s.ac, ov := s.z }) ∧
    (∃ (k c : Bool), exec (.daa m) s = .next
      { s with pc := s.pc + 1#10, wdt := s.clocked 1, c := c
               ac := (daa8 s.acc s.c s.ac k).value.getLsbD 1
               z := (daa8 s.acc s.c s.ac k).value.getLsbD 2
               ov := (daa8 s.acc s.c s.ac k).value.getLsbD 3 })

/-! ## Logic, increment, decrement -/

/-- R130 to R133, R137 to R139, R141 (D19, log 22): the logic instructions with destination ACC complete
with the bitwise result and Z of it; all else stays. -/
def Obligations.LogicIntoTheAccumulator : Prop :=
  ∀ (s : State) (m : DataAddr) (v : Byte),
    exec (.andI v) s = .next (s.accGetsZero (s.acc &&& v)) ∧
    exec (.orI v) s = .next (s.accGetsZero (s.acc ||| v)) ∧
    exec (.xorI v) s = .next (s.accGetsZero (s.acc ^^^ v)) ∧
    (s.operandByte m = some v →
      exec (.andA m) s = .next (s.accGetsZero (s.acc &&& v)) ∧
      exec (.orA m) s = .next (s.accGetsZero (s.acc ||| v)) ∧
      exec (.xorA m) s = .next (s.accGetsZero (s.acc ^^^ v)) ∧
      exec (.cpla m) s = .next (s.accGetsZero (BitVec.ofNat 8 (255 - v.toNat))))

/-- R130, R134 to R136, R140, R124 (D19, log 22): ANDM, ORM, XORM and CPL complete at every location that
can be written but STATUS, with the bitwise result there and Z of it. -/
def Obligations.LogicIntoMemory : Prop :=
  ∀ (s : State) (m : DataAddr) (v : Byte),
    s.operandByte m = some v → s.writable m = true → s.resolve m ≠ .status →
      ∀ p ∈ ([(.andM m, s.acc &&& v), (.orM m, s.acc ||| v), (.xorM m, s.acc ^^^ v),
          (.cpl m, BitVec.ofNat 8 (255 - v.toNat))] : List (Instr × Byte)),
        writesByte p.1 m p.2 (fun u => { u with z := decide (p.2 = 0#8) }) s

/-- R150 to R154 (D19, log 22): INCA, DECA, INC and DEC complete with the byte one more or less modulo 256
and Z of it; C, AC and OV stay. INC and DEC do so at every location that can be written but STATUS. -/
def Obligations.IncrementsAndDecrementsWriteOnlyZ : Prop :=
  ∀ (s : State) (m : DataAddr) (v : Byte), s.operandByte m = some v →
    exec (.inca m) s = .next (s.accGetsZero (BitVec.ofNat 8 ((v.toNat + 1) % 256))) ∧
    exec (.deca m) s = .next (s.accGetsZero (BitVec.ofNat 8 ((v.toNat + 255) % 256))) ∧
    (s.writable m = true → s.resolve m ≠ .status →
      writesByte (.inc m) m (BitVec.ofNat 8 ((v.toNat + 1) % 256))
        (fun u => { u with z := decide (v.toNat = 255) }) s ∧
      writesByte (.dec m) m (BitVec.ofNat 8 ((v.toNat + 255) % 256))
        (fun u => { u with z := decide (v.toNat = 1) }) s)

/-! ## Rotates -/

/-- R160, R162, R164, R166, R168 (D19, log 22): RRA, RRCA, RLA and RLCA complete with the rotated byte in
ACC; the forms through carry put the old C in and write C with the bit rotated out; no other flag
changes. -/
def Obligations.RotatesIntoTheAccumulator : Prop :=
  ∀ (s : State) (m : DataAddr) (v : Byte), s.operandByte m = some v →
    (∃ r : Byte, exec (.rra m) s = .next (s.accGets r) ∧ r.getLsbD 7 = v.getLsbD 0 ∧
      ∀ i < 7, r.getLsbD i = v.getLsbD (i + 1)) ∧
    (∃ r : Byte, exec (.rrca m) s = .next { s.accGets r with c := v.getLsbD 0 } ∧ r.getLsbD 7 = s.c ∧
      ∀ i < 7, r.getLsbD i = v.getLsbD (i + 1)) ∧
    (∃ r : Byte, exec (.rla m) s = .next (s.accGets r) ∧ r.getLsbD 0 = v.getLsbD 7 ∧
      ∀ i < 7, r.getLsbD (i + 1) = v.getLsbD i) ∧
    (∃ r : Byte, exec (.rlca m) s = .next { s.accGets r with c := v.getLsbD 7 } ∧ r.getLsbD 0 = s.c ∧
      ∀ i < 7, r.getLsbD (i + 1) = v.getLsbD i)

/-- R161, R163, R165, R167, R168, R124 (D19, log 22): RR and RL complete at every location that can be
written and touch no flag but as data of STATUS; RRC and RLC complete at every one but STATUS and write C
with the bit rotated out. -/
def Obligations.RotatesIntoMemory : Prop :=
  ∀ (s : State) (m : DataAddr) (v : Byte), s.operandByte m = some v → s.writable m = true →
    (∃ r : Byte, writesByte (.rr m) m r id s ∧ r.getLsbD 7 = v.getLsbD 0 ∧
      ∀ i < 7, r.getLsbD i = v.getLsbD (i + 1)) ∧
    (∃ r : Byte, writesByte (.rl m) m r id s ∧ r.getLsbD 0 = v.getLsbD 7 ∧
      ∀ i < 7, r.getLsbD (i + 1) = v.getLsbD i) ∧
    (s.resolve m ≠ .status →
      (∃ r : Byte, writesByte (.rrc m) m r (fun u => { u with c := v.getLsbD 0 }) s ∧
        r.getLsbD 7 = s.c ∧ ∀ i < 7, r.getLsbD i = v.getLsbD (i + 1)) ∧
      (∃ r : Byte, writesByte (.rlc m) m r (fun u => { u with c := v.getLsbD 7 }) s ∧
        r.getLsbD 0 = s.c ∧ ∀ i < 7, r.getLsbD (i + 1) = v.getLsbD i))

/-! ## Moves, bits, whole bytes -/

/-- R180, R181, R182 (D19, log 22): the moves complete and affect no flag but as data of STATUS; MOV [m],A
needs no readable operand. -/
def Obligations.MovesCopyAByteAndNoFlag : Prop :=
  ∀ (s : State) (m : DataAddr) (v : Byte),
    exec (.movI v) s = .next (s.accGets v) ∧
    (s.operandByte m = some v → exec (.movA m) s = .next (s.accGets v)) ∧
    (s.writable m = true → writesByte (.movM m) m s.acc id s)

/-- R190, R191, R192 (D19, log 22): CLR [m].i and SET [m].i complete at every location that can be
written: the byte read is written back with bit `i` alone changed. That it is written back to port B also
with `i >= 3` is the model's choice (log 39). -/
def Obligations.BitInstructionsWriteTheWholeByteBack : Prop :=
  ∀ (s : State) (m : DataAddr) (i : BitIndex) (v : Byte), s.operandByte m = some v →
    s.writable m = true →
      (∃ r : Byte, writesByte (.clrBit m i) m r id s ∧
        ∀ k < 8, r.getLsbD k = (v.getLsbD k && !decide (k = i.toNat))) ∧
      (∃ r : Byte, writesByte (.setBit m i) m r id s ∧
        ∀ k < 8, r.getLsbD k = (v.getLsbD k || decide (k = i.toNat)))

/-- R312, R70: a bit instruction on a port, CLR [m].i (`v` false) or SET [m].i (`v` true), directly or
through 00H, copies the pad level of every other input line into its latch bit, sets the latch bit of the
line `i` to `v` and leaves the other latch bits; nothing else changes. Port B has three lines; that the pad
levels are copied there also with `i >= 3`, where corner case (e) of R190 says "no effect on state", is the
model's choice (log 39). (D19, D20, D32 and D33, log 22, log 23 and log 31.) -/
def Obligations.BitInstructionOnPortCopiesPadsIntoTheLatch : Prop :=
  ∀ (s : State) (m : DataAddr) (i : BitIndex) (v : Bool) (instr : Instr),
    instr = (if v then .setBit m i else .clrBit m i) →
    (s.resolve m = .portA → ∃ t, exec instr s = .next t ∧
      t = { s with pc := s.pc + 1#10, wdt := s.clocked 1, pa := t.pa } ∧
      ∀ k < 8, t.pa.getLsbD k =
        if k = i.toNat then v
        else if s.pac.getLsbD k = true then
          s.input.padA.getLsbD k || (s.params.options.pullHigh && !s.input.drivenA.getLsbD k)
        else s.pa.getLsbD k) ∧
    (s.resolve m = .portB → ∃ t, exec instr s = .next t ∧
      t = { s with pc := s.pc + 1#10, wdt := s.clocked 1, pb := t.pb } ∧
      ∀ k < 3, t.pb.getLsbD k =
        if k = i.toNat then v
        else if s.pbc.getLsbD k = true then
          s.input.padB.getLsbD k || (s.params.options.pullHigh && !s.input.drivenB.getLsbD k)
        else s.pb.getLsbD k)

/-- R241, R242, R246, R247 (D19, log 22): CLR [m], SET [m] and SWAP complete at every location that can be
written, SWAPA with the byte in ACC; none affects a flag but as data of STATUS. -/
def Obligations.ClearSetAndSwapWriteNoFlag : Prop :=
  ∀ (s : State) (m : DataAddr),
    (s.writable m = true → writesByte (.clr m) m 0x00#8 id s ∧ writesByte (.set m) m 0xFF#8 id s) ∧
    ∀ v : Byte, s.operandByte m = some v →
      exec (.swapa m) s = .next (s.accGets (BitVec.ofNat 8 (16 * (v.toNat % 16) + v.toNat / 16))) ∧
      (s.writable m = true →
        writesByte (.swap m) m (BitVec.ofNat 8 (16 * (v.toNat % 16) + v.toNat / 16)) id s)

/-! ## Branches -/

/-- R202 to R205, R208, R209 (D19, log 22): the skips that write no memory complete and pass one instruction
more in one cycle more when the condition holds. SZA, SIZA and SDZA load ACC with the byte, the byte more
one or the byte less one whether or not the skip is taken, which is when that result is zero. Nothing else
changes, Z among it. -/
def Obligations.SkipsThatWriteNoMemory : Prop :=
  ∀ (s : State) (m : DataAddr) (i : BitIndex) (v : Byte), s.operandByte m = some v →
    exec (.sz m) s = .next (s.afterSkip (decide (v.toNat = 0))) ∧
    exec (.szBit m i) s = .next (s.afterSkip (!v.getLsbD i.toNat)) ∧
    exec (.snzBit m i) s = .next (s.afterSkip (v.getLsbD i.toNat)) ∧
    exec (.sza m) s = .next { s.afterSkip (decide (v.toNat = 0)) with acc := v } ∧
    exec (.siza m) s = .next { s.afterSkip (decide (v.toNat = 255)) with acc := v + 1#8 } ∧
    exec (.sdza m) s = .next { s.afterSkip (decide (v.toNat = 1)) with acc := v - 1#8 }

/-- R206, R207 (D12, log 13; D19, log 22): SIZ and SDZ complete at every location that can be written but
PCL; the byte more or less one is written whether or not the skip is taken, which is when that byte is
zero. No flag changes but as data of STATUS. -/
def Obligations.SkipsThatWriteMemory : Prop :=
  ∀ (s : State) (m : DataAddr) (v : Byte), s.operandByte m = some v → s.writable m = true →
    s.resolve m ≠ .pcl →
      writesByte (.siz m) m (v + 1#8) (State.skipIf (decide (v.toNat = 255))) s ∧
      writesByte (.sdz m) m (v - 1#8) (State.skipIf (decide (v.toNat = 1))) s

/-- R210 to R213 (D8, log 9; D9, log 10; D19, log 22): with no return address held CALL completes and the
returns fault; with one held the returns complete and CALL faults. RET A,x also loads ACC, RETI also sets
EMI. Nothing else changes. -/
def Obligations.CallAndReturnsUseTheOneStackLevel : Prop :=
  ∀ (s : State) (addr : ProgAddr) (x : Byte),
    (s.sp = 0 →
      exec (.call addr) s = .next { s.transferTo addr with stack := s.pc + 1#10, sp := 1 } ∧
      exec .ret s = .fault .stackUnderflow ∧ exec (.retA x) s = .fault .stackUnderflow ∧
      exec .reti s = .fault .stackUnderflow) ∧
    (s.sp = 1 →
      exec (.call addr) s = .fault .stackOverflow ∧
      exec .ret s = .next { s.transferTo s.stack with sp := 0 } ∧
      exec (.retA x) s = .next { s.transferTo s.stack with sp := 0, acc := x } ∧
      exec .reti s = .next { s.transferTo s.stack with sp := 0, emi := true })

/-- R210, R211 (D19, log 22): a return after a call comes back to the instruction after the call, with the
stack free again and every other piece of state but the watchdog's count as before. -/
def Obligations.ReturnAfterCallComesBack : Prop :=
  ∀ (s t : State) (addr : ProgAddr), exec (.call addr) s = .next t →
    ∃ u, exec .ret t = .next u ∧
      u = { s with pc := s.pc + 1#10, stack := s.pc + 1#10, wdt := u.wdt }

/-- R65, R214 (what PCL shows and the page kept are decision D6, log 7; the page end is D7, log 8; SIZ and SDZ
are D12, log 13): away from a page end PCL reads the low byte of the next address, and a write of the byte
`r` continues at `r` in the page the instruction stands in, in one cycle more. So every instruction whose
`[m]` is written completes at PCL, but SIZ and SDZ: it goes to some byte of its page and changes nothing else
but flags and, if a table read, TBLH. MOV goes to ACC, CLR to 00H, SET to FFH, ADDM to its own place plus one
plus ACC, with its flags. -/
def Obligations.WritingPclJumpsWithinThePage : Prop :=
  ∀ (s : State) (m : DataAddr), s.resolve m = .pcl → s.standsAtPageEnd = false →
    s.operandByte m = some (s.pc.setWidth 8 + 1#8) ∧
    (∀ (n : Nat) (r : Byte), (s.startInstr n).writeLoc (s.resolve m) r =
      .next { s with pc := inPageOf s.pc r, wdt := s.clocked (n + 1) }) ∧
    (∀ i : Instr, memoryDestination i = some m → i ≠ .siz m → i ≠ .sdz m →
      ∃ (t : State) (r : Byte), exec i s = .next t ∧
        t = { s with pc := inPageOf s.pc r, wdt := s.clocked (baseCycles i + 1), c := t.c, ac := t.ac
                     z := t.z, ov := t.ov, tblh := t.tblh }) ∧
    exec (.movM m) s = .next (s.transferTo (inPageOf s.pc s.acc)) ∧
    exec (.clr m) s = .next (s.transferTo (inPageOf s.pc 0x00#8)) ∧
    exec (.set m) s = .next (s.transferTo (inPageOf s.pc 0xFF#8)) ∧
    (∃ r : Byte, r.toNat = (s.pc.toNat + 1 + s.acc.toNat) % 256 ∧
      exec (.addM m) s = .next
        ((s.afterAdd (s.pc.setWidth 8 + 1#8) false).copyFlags (s.transferTo (inPageOf s.pc r))))

/-! ## Table reads -/

/-- R230, R231, R232, R73 (D7, log 8; D19, log 22): away from a page end TABRDC reads the word of its own
page at TBLP, TABRDL anywhere the word of the last page; both complete at every location that can be
written, with the word's low byte there and then its other six bits in TBLH; they take two cycles and
touch no flag but as data of STATUS. -/
def Obligations.TableReadsSplitTheWord : Prop :=
  ∀ (s : State) (m : DataAddr), s.writable m = true →
    (s.standsAtPageEnd = false → ∃ u w, w = s.progRead (inPageOf s.pc s.tblp) ∧
      (s.startInstr 2).writeLoc (s.resolve m) (BitVec.ofNat 8 (w.toNat % 256)) = .next u ∧
      exec (.tabrdc m) s = .next { u with tblh := BitVec.ofNat 6 (w.toNat / 256) }) ∧
    (∃ u w, w = s.progRead (BitVec.ofNat 10 (0x300 + s.tblp.toNat)) ∧
      (s.startInstr 2).writeLoc (s.resolve m) (BitVec.ofNat 8 (w.toNat % 256)) = .next u ∧
      exec (.tabrdl m) s = .next { u with tblh := BitVec.ofNat 6 (w.toNat / 256) })

/-! ## System instructions -/

/-- R240 (D19, log 22), R201: NOP advances the program counter in one cycle, JMP puts its address there in
two; nothing else changes. -/
def Obligations.NopAndJumpChangeOnlyTheProgramCounter : Prop :=
  ∀ (s : State) (addr : ProgAddr),
    exec .nop s = .next { s with pc := s.pc + 1#10, wdt := s.clocked 1 } ∧
    exec (.jmp addr) s = .next (s.transferTo addr)

/-- R243 to R245 with the watchdog enabled (D16, log 17; D19, log 22): CLR WDT clears the watchdog, TO and
PDF under the one-instruction option and does nothing under the other; CLR WDT1 and CLR WDT2 set their
mark, or, when the other mark is set, clear the watchdog, TO, PDF and both marks, under the
two-instruction option, and do nothing under the other. -/
def Obligations.ClearInstructionsOfAnEnabledWatchdog : Prop :=
  ∀ s t : State, s.params.options.wdtEnable = true →
    t = { s with pc := s.pc + 1#10, wdt := s.clocked 1 } →
    (s.params.options.clrWdtTimes = .one →
      exec .clrWdt s = .next { t with wdt := 0, wsChanged := false, tout := false, pdf := false } ∧
      exec .clrWdt1 s = .next t ∧ exec .clrWdt2 s = .next t) ∧
    (s.params.options.clrWdtTimes = .two →
      exec .clrWdt s = .next t ∧
      exec .clrWdt1 s = .next (if s.wf2 = true then
        { t with wdt := 0, wsChanged := false, tout := false, pdf := false, wf1 := false, wf2 := false }
        else { t with wf1 := true }) ∧
      exec .clrWdt2 s = .next (if s.wf1 = true then
        { t with wdt := 0, wsChanged := false, tout := false, pdf := false, wf1 := false, wf2 := false }
        else { t with wf2 := true }))

/-- R250 (decision D15, log 16; D19, log 22): with the watchdog disabled the three clear instructions
complete and change nothing but the program counter unless `WDTDIS_CLR_FLAGS` holds. If it holds, an
instruction that would clear an enabled watchdog clears TO and PDF and no counter: CLR WDT under the
one-instruction option, and under the other the second of CLR WDT1 and CLR WDT2. That the marks are then
kept as of an enabled watchdog, so that it is known which is the second, is the model's reading (log 16). -/
def Obligations.ClearInstructionsOfADisabledWatchdog : Prop :=
  ∀ s t u : State, s.params.options.wdtEnable = false → t = { s with pc := s.pc + 1#10 } →
    u = { t with tout := false, pdf := false } →
    (s.params.wdtDisClrFlags = false →
      exec .clrWdt s = .next t ∧ exec .clrWdt1 s = .next t ∧ exec .clrWdt2 s = .next t) ∧
    (s.params.wdtDisClrFlags = true →
      (s.params.options.clrWdtTimes = .one →
        exec .clrWdt s = .next u ∧ exec .clrWdt1 s = .next t ∧ exec .clrWdt2 s = .next t) ∧
      (s.params.options.clrWdtTimes = .two →
        exec .clrWdt s = .next t ∧
        exec .clrWdt1 s = .next (if s.wf2 = true then { u with wf1 := false, wf2 := false }
          else { t with wf1 := true }) ∧
        exec .clrWdt2 s = .next (if s.wf1 = true then { u with wf1 := false, wf2 := false }
          else { t with wf2 := true })))

/-- R248 (D15, log 16; the marks are unknown, D16, log 17; D19, log 22): HALT sets PDF, clears TO, clears
the watchdog and stops the core at the next instruction, whatever the watchdog option; all else stays. -/
def Obligations.HaltStopsTheCoreAtTheNextInstruction : Prop :=
  ∀ s : State, ∃ w1 w2, exec .halt s = .next
    { s with pc := s.pc + 1#10, pdf := true, tout := false, wdt := 0, wsChanged := false,
             mode := .halt, wf1 := w1, wf2 := w2 }

/-! ## Rules over all instructions -/

/-- R26: an instruction writes only the flags of its row of the flag table, unless it writes STATUS as
data. -/
def Obligations.InstructionsWriteOnlyTheFlagsOfTheirRow : Prop :=
  ∀ (i : Instr) (s t : State), exec i s = .next t →
    (∀ m, memoryDestination i = some m → s.resolve m ≠ .status) →
      (flagRow i = .arithmetic ∨ flagRow i = .carryOnly ∨ t.c = s.c) ∧
      (flagRow i = .arithmetic ∨ t.ac = s.ac) ∧
      (flagRow i = .arithmetic ∨ flagRow i = .zeroOnly ∨ t.z = s.z) ∧
      (flagRow i = .arithmetic ∨ t.ov = s.ov) ∧
      (flagRow i = .power ∨ t.tout = s.tout ∧ t.pdf = s.pdf)

/-- R25: no instruction but the clear instructions and HALT changes TO or PDF, not even by writing STATUS,
and no step sets TO but a watchdog time-out. -/
def Obligations.PowerFlagsChangeOnlyByWatchdogAndHalt : Prop :=
  (∀ (i : Instr) (s t : State), exec i s = .next t → flagRow i ≠ .power →
    t.tout = s.tout ∧ t.pdf = s.pdf) ∧
  (∀ s t : State, step s = .next t → t.tout = true → s.tout = true ∨ s.dueEvent = some .wdtTimeout)

/-- R24, R39, R67, R248: only CALL and the returns change `sp`, only CALL the stack register, only RETI
EMI, only TABRDC and TABRDL TBLH, only HALT the mode. That no other instruction writes TBLH rests on
decision D13 (log 14), which refuses such a write, and that none writes EMI on D9 (log 10). -/
def Obligations.HiddenStateHasItsOwnWriters : Prop :=
  ∀ (i : Instr) (s t : State), exec i s = .next t →
    ((∀ a, i ≠ .call a) → t.stack = s.stack) ∧
    ((∀ a x, i ≠ .call a ∧ i ≠ .ret ∧ i ≠ .retA x ∧ i ≠ .reti) → t.sp = s.sp) ∧
    (i ≠ .reti → t.emi = s.emi) ∧
    ((∀ m, i ≠ .tabrdc m ∧ i ≠ .tabrdl m) → t.tblh = s.tblh) ∧
    (i ≠ .halt → t.mode = s.mode)

/-- R200 (D19, log 22): after an instruction the program counter is one on, or two on after a skip
instruction, or the target of a JMP or CALL, or the stack register after a return, or, where `[m]` names
PCL, in the page of the next instruction. -/
def Obligations.TheProgramCounterGoesNowhereElse : Prop :=
  ∀ (i : Instr) (s t : State), exec i s = .next t →
    t.pc = s.pc + 1#10 ∨ (isSkip i = true ∧ t.pc = s.pc + 2#10) ∨
    (∃ a, (i = .jmp a ∨ i = .call a) ∧ t.pc = a) ∨
    ((i = .ret ∨ i = .reti ∨ ∃ x, i = .retA x) ∧ t.pc = s.stack) ∨
    (∃ m b, memoryDestination i = some m ∧ s.resolve m = .pcl ∧ t.pc = inPageOf (s.pc + 1#10) b)

/-- R320, R269: an instruction other than the clear instructions and HALT advances a watchdog clocked by
f_SYS/4 by its cycles: its base count, one more for a skip taken, one more for a PCL written. -/
def Obligations.CyclesAdvanceTheWatchdog : Prop :=
  ∀ (i : Instr) (s t : State), exec i s = .next t → flagRow i ≠ .power →
    t.wdt = s.clocked (baseCycles i +
      (if isSkip i = true ∧ t.pc = s.pc + 2#10 then 1 else 0) +
      (if ∃ m, memoryDestination i = some m ∧ s.resolve m = .pcl then 1 else 0))

/-! ## Events -/

/-- R301 and the power-on column of R43, as far as they give values: what a power-on leaves, and so
`State.reset`: RUN at 000H with no return address, TO and PDF clear, WDTS 07H, the port registers all ones,
the watchdog cleared. -/
def Obligations.PowerOnInitialisesTheMachine : Prop :=
  let initialised : State → Prop := fun t =>
    t.pc = 0x000#10 ∧ t.sp = 0 ∧ t.mode = .run ∧ t.tout = false ∧ t.pdf = false ∧ t.wdts = 0x07#8 ∧
      t.pa = 0xFF#8 ∧ t.pac = 0xFF#8 ∧ t.pb = 0b111#3 ∧ t.pbc = 0b111#3 ∧ t.wdt = 0
  initialised State.reset ∧
    ∀ s : State, s.dueEvent = some .powerOn → ∃ t, step s = .next t ∧ initialised t

/-- R301, R279, R305 (a low supply needs the LVR enabled, D24, log 26): a RES or LVR reset restarts at 000H
with WDTS, the ports and the watchdog initialised; TO and PDF stay in RUN mode and are 0 and 1 from HALT
mode; ACC, MP, TBLP, TBLH and the other flags stay; the RAM stays if `RAM_SURVIVES_RESET` (D18, log 21). -/
def Obligations.ResResetKeepsTheDataRegisters : Prop :=
  ∀ s : State, s.dueEvent = some .resLow ∨
    (s.dueEvent = some .lowVoltage ∧ s.params.options.lvrEnable = true) →
    ∃ t, step s = .next t ∧
      t.pc = 0x000#10 ∧ t.sp = 0 ∧ t.mode = .run ∧ t.wdts = 0x07#8 ∧ t.pa = 0xFF#8 ∧ t.pac = 0xFF#8 ∧
      t.pb = 0b111#3 ∧ t.pbc = 0b111#3 ∧ t.wdt = 0 ∧
      (s.mode = .halt → t.tout = false ∧ t.pdf = true) ∧
      (s.mode = .run → t.tout = s.tout ∧ t.pdf = s.pdf) ∧
      t.acc = s.acc ∧ t.mp = s.mp ∧ t.tblp = s.tblp ∧ t.tblh = s.tblh ∧ t.c = s.c ∧ t.ac = s.ac ∧
      t.z = s.z ∧ t.ov = s.ov ∧
      (s.params.ramSurvivesReset = true → ∀ a, t.ramRead a = s.ramRead a)

/-- R272: a watchdog time-out in RUN mode is a chip reset that sets TO and leaves PDF. -/
def Obligations.TimeoutInRunModeIsAChipReset : Prop :=
  ∀ s : State, s.dueEvent = some .wdtTimeout → s.mode = .run →
    ∃ t, step s = .next t ∧
      t.pc = 0x000#10 ∧ t.sp = 0 ∧ t.mode = .run ∧ t.tout = true ∧ t.pdf = s.pdf ∧ t.wdts = 0x07#8 ∧
      t.pa = 0xFF#8 ∧ t.pac = 0xFF#8 ∧ t.pb = 0b111#3 ∧ t.pbc = 0b111#3 ∧ t.wdt = 0 ∧
      t.acc = s.acc ∧ t.mp = s.mp ∧ t.tblp = s.tblp ∧ t.tblh = s.tblh ∧ t.c = s.c ∧ t.ac = s.ac ∧
      t.z = s.z ∧ t.ov = s.ov

/-- R272: a watchdog time-out in HALT mode, the warm reset, resets only the program counter and SP, sets
TO, clears the watchdog and starts the core; of the rest only the marks and EMI are not known to stay
(D16, D9, log 17, log 10). That the stack register stays, which R43 calls not stated, is the model's
reading of R265 (log 34). -/
def Obligations.TimeoutInHaltModeIsAWarmReset : Prop :=
  ∀ s : State, s.dueEvent = some .wdtTimeout → s.mode = .halt →
    ∃ w1 w2 e, step s = .next
      { s with pc := 0x000#10, sp := 0, tout := true, wdt := 0, wsChanged := false, mode := .run,
               wf1 := w1, wf2 := w2, emi := e, env := s.env.tail, time := s.time + 1 }

/-- R303: what every chip reset leaves in the functional units: the program counter at 000H, the watchdog
cleared, the I/O lines inputs with the latches at all ones, the stack pointer at the top. The warm reset
does the first, the second and the last of these and leaves the ports. -/
def Obligations.ChipResetsLeaveTheFunctionalUnitsInitialised : Prop :=
  ∀ (s t : State) (e : Event), s.dueEvent = some e → e ≠ .wakeA → step s = .next t →
    t.pc = 0x000#10 ∧ t.wdt = 0 ∧ t.sp = 0 ∧
    (e ≠ .wdtTimeout ∨ s.mode = .run →
      t.pac = 0xFF#8 ∧ t.pbc = 0b111#3 ∧ t.pa = 0xFF#8 ∧ t.pb = 0b111#3) ∧
    (e = .wdtTimeout → s.mode = .halt → t.pac = s.pac ∧ t.pbc = s.pbc ∧ t.pa = s.pa ∧ t.pb = s.pb)

/-- R275 (D34, log 32): a falling edge on an enabled input line of port A wakes a halted core when no
reset is due, and no time-out or one that the environment puts second (D23, log 25); only the mode changes,
besides the oscillator's count, the input and the index of the step. -/
def Obligations.PortAEdgeWakesTheCore : Prop :=
  ∀ (s : State) (i : Nat), i < 8 → s.mode = .halt → s.input.fallA.getLsbD i = true →
    s.params.options.paWake.getLsbD i = true → s.pac.getLsbD i = true →
    s.input.powerOn = false → s.input.lowVoltage = false → s.input.resLow = false →
    s.input.wakeFirst = true ∨ s.atBoundary.wdtDue s.input.wdtFire = false →
      step s = .next { s with mode := .run, wdt := s.atBoundary.wdt, env := s.env.tail,
                              time := s.time + 1 }

/-- R274, R275: the core leaves HALT mode only by a reset, a time-out or a wake-up of an enabled line of
port A. That the line must be an input is decision D34 (log 32). -/
def Obligations.HaltModeEndsOnlyByAnEvent : Prop :=
  ∀ s t : State, s.mode = .halt → step s = .next t → t.mode = .run →
    s.input.powerOn = true ∨ s.input.resLow = true ∨
    (s.input.lowVoltage = true ∧ s.params.options.lvrEnable = true) ∨
    s.dueEvent = some .wdtTimeout ∨
    ∃ i < 8, s.input.fallA.getLsbD i = true ∧ s.params.options.paWake.getLsbD i = true ∧
      s.pac.getLsbD i = true

/-- R264, R279 (decisions D23 and D24, log 25 and log 26): a power-on, LVR or RES reset prevails over a
time-out and a wake-up; of a time-out and a wake-up due together in HALT mode the one acts that the
environment puts first; a low supply with the LVR disabled is refused. -/
def Obligations.ResetsPrevailOverTimeoutAndWakeup : Prop :=
  ∀ s : State,
    (s.input.powerOn = true → s.dueEvent = some .powerOn) ∧
    (s.input.powerOn = false → s.input.lowVoltage = true →
      s.dueEvent = some .lowVoltage ∧
      (s.params.options.lvrEnable = false → step s = .refused .brownOut)) ∧
    (s.input.powerOn = false → s.input.lowVoltage = false → s.input.resLow = true →
      s.dueEvent = some .resLow) ∧
    (s.input.powerOn = false → s.input.lowVoltage = false → s.input.resLow = false →
      (s.atBoundary.wakes s.input = true → s.input.wakeFirst = true → s.dueEvent = some .wakeA) ∧
      (s.atBoundary.wdtDue s.input.wdtFire = true →
        s.input.wakeFirst = false ∨ s.atBoundary.wakes s.input = false → s.dueEvent = some .wdtTimeout))

/-- R270, R263 (decisions D17 and D31, log 18 and log 20): a time-out needs an enabled watchdog, in HALT
mode its own oscillator, and 512 times the ratio of WS2..WS0, less one, WDT clocks since the last clear,
or 255 when WS2..WS0 changed since. It falls at the latest at the first boundary at which 512 times the
ratio, and one, WDT clocks have passed, when nothing else is due; when WS2..WS0 changed, the ratio here is
128. -/
def Obligations.TimeoutsFallInTheirWindow : Prop :=
  ∀ s : State,
    (s.dueEvent = some .wdtTimeout →
      s.params.options.wdtEnable = true ∧
      (s.mode = .halt → s.params.options.wdtClk = .wdtOsc) ∧
      (s.wsChanged = false → 512 * 2 ^ (s.wdts.toNat % 8) ≤ s.atBoundary.wdt + 1) ∧
      255 ≤ s.atBoundary.wdt) ∧
    (s.params.options.wdtEnable = true →
      (s.mode = .run ∨ s.params.options.wdtClk = .wdtOsc) →
      (s.wsChanged = false ∧ 512 * 2 ^ (s.wdts.toNat % 8) + 1 ≤ s.atBoundary.wdt ∨
        512 * 128 + 1 ≤ s.atBoundary.wdt) →
      s.input.powerOn = false → s.input.lowVoltage = false → s.input.resLow = false →
      s.input.fallA = 0#8 → s.dueEvent = some .wdtTimeout)

/-- R269, R270, R272, R274 (fairness is decision D17, log 19; the stops of a run are the decisions behind the
faults and refusals): the ticks of the watchdog oscillator never stop, and each step takes the environment's
next input. So an enabled watchdog on its oscillator does not count on for ever: the run stops, or some step
brings a count above zero to zero; whether a time-out, a reset, a clear instruction or HALT does so is left
open. And a halted core with such a watchdog runs again, by whichever event, unless a low supply with the
LVR disabled ends the run before (D24, log 26). -/
def Obligations.OscillatorWatchdogCountsUntilClearedOrTheRunStops : Prop :=
  (∀ (s : State) (n : Nat), ∃ k, n ≤ k ∧ 0 < (s.inputAt k).oscTicks) ∧
  (∀ (s t : State) (k : Nat), runFor k s = .next t → t.input = s.inputAt k) ∧
  ∀ s : State, s.params.options.wdtEnable = true → s.params.options.wdtClk = .wdtOsc →
    (∃ n, (∀ t, runFor n s ≠ .next t) ∨
      ∃ t u, runFor n s = .next t ∧ step t = .next u ∧ 0 < t.atBoundary.wdt ∧
        u.wdt = 0) ∧
    (s.mode = .halt → ∃ n, runFor n s = .refused .brownOut ∨
      ∃ t, runFor n s = .next t ∧ t.mode = .run)
end

