-- ==== Sys2Proof/Laws/Environment.lean ====
section
/-!
SUPPORT. What is known of the free constants that the spec constrains, of runs, and of the inputs of later
steps.
-/
namespace Sys2Proof.Machine

/-- The chip's encoding, though unknown, meets R94. -/
theorem chipEncoding_lawful : chipEncoding.lawful :=
  Config.decodeTable.lawful

/-! ## Runs -/

@[simp] theorem runFor_zero (s : State) : runFor 0 s = .next s := rfl

/-- A run takes its first step, then the rest. -/
theorem runFor_succ (n : Nat) (s : State) : runFor (n + 1) s = andThen (step s) (runFor n) := by
  have run_succ : ∀ (M : Host.Core) (s : M.State), M.run (n + 1) s =
      match M.step s with
      | .next t => M.run n t
      | .fault r => .fault r
      | .refused r => .refused r := fun _ _ => rfl
  refine (run_succ Sys2Proof.core s).trans ?_
  show _ = andThen (Sys2Proof.core.step s) (runFor n)
  cases Sys2Proof.core.step s <;> rfl

/-- A run takes its last step after the others. -/
theorem runFor_succ' (n : Nat) (s : State) : runFor (n + 1) s = andThen (runFor n s) step := by
  induction n generalizing s with
  | zero =>
    rw [runFor_succ]
    cases h : step s <;> simp [andThen, h]
  | succ n ih =>
    rw [runFor_succ, runFor_succ n]
    cases step s with
    | next t => exact ih t
    | fault r => rfl
    | refused r => rfl

/-! ## Inputs -/

theorem State.input_eq_inputAt_zero (s : State) : s.input = s.inputAt 0 := by
  unfold State.input State.inputAt
  cases s.env <;> rfl

/-- The end of a step moves every input one step nearer. -/
theorem State.inputAt_of_env_time {s t : State} (he : t.env = s.env.tail) (ht : t.time = s.time + 1)
    (k : Nat) : t.inputAt k = s.inputAt (k + 1) := by
  unfold State.inputAt
  rw [he, ht, List.getElem?_tail, Nat.add_assoc, Nat.add_comm 1 k]

/-- The ticks never stop (R269, D17), after the inputs laid down as in any state. -/
theorem State.ticks_never_stop (s : State) (n : Nat) : ∃ k, n ≤ k ∧ 0 < (s.inputAt k).oscTicks := by
  obtain ⟨k, hk, ht⟩ := Config.input.ticksNeverStop (s.time + n + s.env.length)
  refine ⟨k - s.time, by omega, ?_⟩
  unfold State.inputAt
  rw [List.getElem?_eq_none (by omega), show s.time + (k - s.time) = k by omega]
  exact ht

end Sys2Proof.Machine
end

