-- ==== Sys2Proof/Laws/State.lean ====
section
/-!
SUPPORT. One lemma per field per update of the state, so that no proof unfolds an update.
-/
namespace Sys2Proof.Machine

section applyFlagsFields
variable (u : FlagUpdate) (s : State)
@[simp] theorem State.applyFlags_acc : (s.applyFlags u).acc = s.acc := rfl
@[simp] theorem State.applyFlags_pc : (s.applyFlags u).pc = s.pc := rfl
@[simp] theorem State.applyFlags_stack : (s.applyFlags u).stack = s.stack := rfl
@[simp] theorem State.applyFlags_sp : (s.applyFlags u).sp = s.sp := rfl
@[simp] theorem State.applyFlags_c : (s.applyFlags u).c = u.c.getD s.c := rfl
@[simp] theorem State.applyFlags_ac : (s.applyFlags u).ac = u.ac.getD s.ac := rfl
@[simp] theorem State.applyFlags_z : (s.applyFlags u).z = u.z.getD s.z := rfl
@[simp] theorem State.applyFlags_ov : (s.applyFlags u).ov = u.ov.getD s.ov := rfl
@[simp] theorem State.applyFlags_pdf : (s.applyFlags u).pdf = s.pdf := rfl
@[simp] theorem State.applyFlags_tout : (s.applyFlags u).tout = s.tout := rfl
@[simp] theorem State.applyFlags_mp : (s.applyFlags u).mp = s.mp := rfl
@[simp] theorem State.applyFlags_tblp : (s.applyFlags u).tblp = s.tblp := rfl
@[simp] theorem State.applyFlags_tblh : (s.applyFlags u).tblh = s.tblh := rfl
@[simp] theorem State.applyFlags_wdts : (s.applyFlags u).wdts = s.wdts := rfl
@[simp] theorem State.applyFlags_pa : (s.applyFlags u).pa = s.pa := rfl
@[simp] theorem State.applyFlags_pac : (s.applyFlags u).pac = s.pac := rfl
@[simp] theorem State.applyFlags_pb : (s.applyFlags u).pb = s.pb := rfl
@[simp] theorem State.applyFlags_pbc : (s.applyFlags u).pbc = s.pbc := rfl
@[simp] theorem State.applyFlags_ram : (s.applyFlags u).ram = s.ram := rfl
@[simp] theorem State.applyFlags_wdt : (s.applyFlags u).wdt = s.wdt := rfl
@[simp] theorem State.applyFlags_wf1 : (s.applyFlags u).wf1 = s.wf1 := rfl
@[simp] theorem State.applyFlags_wf2 : (s.applyFlags u).wf2 = s.wf2 := rfl
@[simp] theorem State.applyFlags_emi : (s.applyFlags u).emi = s.emi := rfl
@[simp] theorem State.applyFlags_mode : (s.applyFlags u).mode = s.mode := rfl
@[simp] theorem State.applyFlags_rom : (s.applyFlags u).rom = s.rom := rfl
@[simp] theorem State.applyFlags_params : (s.applyFlags u).params = s.params := rfl
@[simp] theorem State.applyFlags_wsChanged : (s.applyFlags u).wsChanged = s.wsChanged := rfl
@[simp] theorem State.applyFlags_env : (s.applyFlags u).env = s.env := rfl
@[simp] theorem State.applyFlags_time : (s.applyFlags u).time = s.time := rfl
@[simp] theorem State.applyFlags_ramEpoch : (s.applyFlags u).ramEpoch = s.ramEpoch := rfl
end applyFlagsFields

section writeStatusFields
variable (v : Byte) (s : State)
@[simp] theorem State.writeStatus_acc : (s.writeStatus v).acc = s.acc := rfl
@[simp] theorem State.writeStatus_pc : (s.writeStatus v).pc = s.pc := rfl
@[simp] theorem State.writeStatus_stack : (s.writeStatus v).stack = s.stack := rfl
@[simp] theorem State.writeStatus_sp : (s.writeStatus v).sp = s.sp := rfl
@[simp] theorem State.writeStatus_c : (s.writeStatus v).c = v.getLsbD 0 := rfl
@[simp] theorem State.writeStatus_ac : (s.writeStatus v).ac = v.getLsbD 1 := rfl
@[simp] theorem State.writeStatus_z : (s.writeStatus v).z = v.getLsbD 2 := rfl
@[simp] theorem State.writeStatus_ov : (s.writeStatus v).ov = v.getLsbD 3 := rfl
@[simp] theorem State.writeStatus_pdf : (s.writeStatus v).pdf = s.pdf := rfl
@[simp] theorem State.writeStatus_tout : (s.writeStatus v).tout = s.tout := rfl
@[simp] theorem State.writeStatus_mp : (s.writeStatus v).mp = s.mp := rfl
@[simp] theorem State.writeStatus_tblp : (s.writeStatus v).tblp = s.tblp := rfl
@[simp] theorem State.writeStatus_tblh : (s.writeStatus v).tblh = s.tblh := rfl
@[simp] theorem State.writeStatus_wdts : (s.writeStatus v).wdts = s.wdts := rfl
@[simp] theorem State.writeStatus_pa : (s.writeStatus v).pa = s.pa := rfl
@[simp] theorem State.writeStatus_pac : (s.writeStatus v).pac = s.pac := rfl
@[simp] theorem State.writeStatus_pb : (s.writeStatus v).pb = s.pb := rfl
@[simp] theorem State.writeStatus_pbc : (s.writeStatus v).pbc = s.pbc := rfl
@[simp] theorem State.writeStatus_ram : (s.writeStatus v).ram = s.ram := rfl
@[simp] theorem State.writeStatus_wdt : (s.writeStatus v).wdt = s.wdt := rfl
@[simp] theorem State.writeStatus_wf1 : (s.writeStatus v).wf1 = s.wf1 := rfl
@[simp] theorem State.writeStatus_wf2 : (s.writeStatus v).wf2 = s.wf2 := rfl
@[simp] theorem State.writeStatus_emi : (s.writeStatus v).emi = s.emi := rfl
@[simp] theorem State.writeStatus_mode : (s.writeStatus v).mode = s.mode := rfl
@[simp] theorem State.writeStatus_rom : (s.writeStatus v).rom = s.rom := rfl
@[simp] theorem State.writeStatus_params : (s.writeStatus v).params = s.params := rfl
@[simp] theorem State.writeStatus_wsChanged : (s.writeStatus v).wsChanged = s.wsChanged := rfl
@[simp] theorem State.writeStatus_env : (s.writeStatus v).env = s.env := rfl
@[simp] theorem State.writeStatus_time : (s.writeStatus v).time = s.time := rfl
@[simp] theorem State.writeStatus_ramEpoch : (s.writeStatus v).ramEpoch = s.ramEpoch := rfl
end writeStatusFields

section ramWriteFields
variable (a : Nat) (v : Byte) (s : State)
@[simp] theorem State.ramWrite_acc : (s.ramWrite a v).acc = s.acc := rfl
@[simp] theorem State.ramWrite_pc : (s.ramWrite a v).pc = s.pc := rfl
@[simp] theorem State.ramWrite_stack : (s.ramWrite a v).stack = s.stack := rfl
@[simp] theorem State.ramWrite_sp : (s.ramWrite a v).sp = s.sp := rfl
@[simp] theorem State.ramWrite_c : (s.ramWrite a v).c = s.c := rfl
@[simp] theorem State.ramWrite_ac : (s.ramWrite a v).ac = s.ac := rfl
@[simp] theorem State.ramWrite_z : (s.ramWrite a v).z = s.z := rfl
@[simp] theorem State.ramWrite_ov : (s.ramWrite a v).ov = s.ov := rfl
@[simp] theorem State.ramWrite_pdf : (s.ramWrite a v).pdf = s.pdf := rfl
@[simp] theorem State.ramWrite_tout : (s.ramWrite a v).tout = s.tout := rfl
@[simp] theorem State.ramWrite_mp : (s.ramWrite a v).mp = s.mp := rfl
@[simp] theorem State.ramWrite_tblp : (s.ramWrite a v).tblp = s.tblp := rfl
@[simp] theorem State.ramWrite_tblh : (s.ramWrite a v).tblh = s.tblh := rfl
@[simp] theorem State.ramWrite_wdts : (s.ramWrite a v).wdts = s.wdts := rfl
@[simp] theorem State.ramWrite_pa : (s.ramWrite a v).pa = s.pa := rfl
@[simp] theorem State.ramWrite_pac : (s.ramWrite a v).pac = s.pac := rfl
@[simp] theorem State.ramWrite_pb : (s.ramWrite a v).pb = s.pb := rfl
@[simp] theorem State.ramWrite_pbc : (s.ramWrite a v).pbc = s.pbc := rfl
@[simp] theorem State.ramWrite_ram : (s.ramWrite a v).ram = Memory.write s.ram a v := rfl
@[simp] theorem State.ramWrite_wdt : (s.ramWrite a v).wdt = s.wdt := rfl
@[simp] theorem State.ramWrite_wf1 : (s.ramWrite a v).wf1 = s.wf1 := rfl
@[simp] theorem State.ramWrite_wf2 : (s.ramWrite a v).wf2 = s.wf2 := rfl
@[simp] theorem State.ramWrite_emi : (s.ramWrite a v).emi = s.emi := rfl
@[simp] theorem State.ramWrite_mode : (s.ramWrite a v).mode = s.mode := rfl
@[simp] theorem State.ramWrite_rom : (s.ramWrite a v).rom = s.rom := rfl
@[simp] theorem State.ramWrite_params : (s.ramWrite a v).params = s.params := rfl
@[simp] theorem State.ramWrite_wsChanged : (s.ramWrite a v).wsChanged = s.wsChanged := rfl
@[simp] theorem State.ramWrite_env : (s.ramWrite a v).env = s.env := rfl
@[simp] theorem State.ramWrite_time : (s.ramWrite a v).time = s.time := rfl
@[simp] theorem State.ramWrite_ramEpoch : (s.ramWrite a v).ramEpoch = s.ramEpoch := rfl
end ramWriteFields

section passTimeFields
variable (s : State)
@[simp] theorem State.passTime_acc : (s.passTime).acc = s.acc := rfl
@[simp] theorem State.passTime_pc : (s.passTime).pc = s.pc := rfl
@[simp] theorem State.passTime_stack : (s.passTime).stack = s.stack := rfl
@[simp] theorem State.passTime_sp : (s.passTime).sp = s.sp := rfl
@[simp] theorem State.passTime_c : (s.passTime).c = s.c := rfl
@[simp] theorem State.passTime_ac : (s.passTime).ac = s.ac := rfl
@[simp] theorem State.passTime_z : (s.passTime).z = s.z := rfl
@[simp] theorem State.passTime_ov : (s.passTime).ov = s.ov := rfl
@[simp] theorem State.passTime_pdf : (s.passTime).pdf = s.pdf := rfl
@[simp] theorem State.passTime_tout : (s.passTime).tout = s.tout := rfl
@[simp] theorem State.passTime_mp : (s.passTime).mp = s.mp := rfl
@[simp] theorem State.passTime_tblp : (s.passTime).tblp = s.tblp := rfl
@[simp] theorem State.passTime_tblh : (s.passTime).tblh = s.tblh := rfl
@[simp] theorem State.passTime_wdts : (s.passTime).wdts = s.wdts := rfl
@[simp] theorem State.passTime_pa : (s.passTime).pa = s.pa := rfl
@[simp] theorem State.passTime_pac : (s.passTime).pac = s.pac := rfl
@[simp] theorem State.passTime_pb : (s.passTime).pb = s.pb := rfl
@[simp] theorem State.passTime_pbc : (s.passTime).pbc = s.pbc := rfl
@[simp] theorem State.passTime_ram : (s.passTime).ram = s.ram := rfl
@[simp] theorem State.passTime_wdt : (s.passTime).wdt = s.wdt := rfl
@[simp] theorem State.passTime_wf1 : (s.passTime).wf1 = s.wf1 := rfl
@[simp] theorem State.passTime_wf2 : (s.passTime).wf2 = s.wf2 := rfl
@[simp] theorem State.passTime_emi : (s.passTime).emi = s.emi := rfl
@[simp] theorem State.passTime_mode : (s.passTime).mode = s.mode := rfl
@[simp] theorem State.passTime_rom : (s.passTime).rom = s.rom := rfl
@[simp] theorem State.passTime_params : (s.passTime).params = s.params := rfl
@[simp] theorem State.passTime_wsChanged : (s.passTime).wsChanged = s.wsChanged := rfl
@[simp] theorem State.passTime_env : (s.passTime).env = s.env.tail := rfl
@[simp] theorem State.passTime_time : (s.passTime).time = s.time + 1 := rfl
@[simp] theorem State.passTime_ramEpoch : (s.passTime).ramEpoch = s.ramEpoch := rfl
end passTimeFields

section countCyclesFields
variable (n : Nat) (s : State)
@[simp] theorem State.countCycles_acc : (s.countCycles n).acc = s.acc := rfl
@[simp] theorem State.countCycles_pc : (s.countCycles n).pc = s.pc := rfl
@[simp] theorem State.countCycles_stack : (s.countCycles n).stack = s.stack := rfl
@[simp] theorem State.countCycles_sp : (s.countCycles n).sp = s.sp := rfl
@[simp] theorem State.countCycles_c : (s.countCycles n).c = s.c := rfl
@[simp] theorem State.countCycles_ac : (s.countCycles n).ac = s.ac := rfl
@[simp] theorem State.countCycles_z : (s.countCycles n).z = s.z := rfl
@[simp] theorem State.countCycles_ov : (s.countCycles n).ov = s.ov := rfl
@[simp] theorem State.countCycles_pdf : (s.countCycles n).pdf = s.pdf := rfl
@[simp] theorem State.countCycles_tout : (s.countCycles n).tout = s.tout := rfl
@[simp] theorem State.countCycles_mp : (s.countCycles n).mp = s.mp := rfl
@[simp] theorem State.countCycles_tblp : (s.countCycles n).tblp = s.tblp := rfl
@[simp] theorem State.countCycles_tblh : (s.countCycles n).tblh = s.tblh := rfl
@[simp] theorem State.countCycles_wdts : (s.countCycles n).wdts = s.wdts := rfl
@[simp] theorem State.countCycles_pa : (s.countCycles n).pa = s.pa := rfl
@[simp] theorem State.countCycles_pac : (s.countCycles n).pac = s.pac := rfl
@[simp] theorem State.countCycles_pb : (s.countCycles n).pb = s.pb := rfl
@[simp] theorem State.countCycles_pbc : (s.countCycles n).pbc = s.pbc := rfl
@[simp] theorem State.countCycles_ram : (s.countCycles n).ram = s.ram := rfl
@[simp] theorem State.countCycles_wf1 : (s.countCycles n).wf1 = s.wf1 := rfl
@[simp] theorem State.countCycles_wf2 : (s.countCycles n).wf2 = s.wf2 := rfl
@[simp] theorem State.countCycles_emi : (s.countCycles n).emi = s.emi := rfl
@[simp] theorem State.countCycles_mode : (s.countCycles n).mode = s.mode := rfl
@[simp] theorem State.countCycles_rom : (s.countCycles n).rom = s.rom := rfl
@[simp] theorem State.countCycles_params : (s.countCycles n).params = s.params := rfl
@[simp] theorem State.countCycles_wsChanged : (s.countCycles n).wsChanged = s.wsChanged := rfl
@[simp] theorem State.countCycles_env : (s.countCycles n).env = s.env := rfl
@[simp] theorem State.countCycles_time : (s.countCycles n).time = s.time := rfl
@[simp] theorem State.countCycles_ramEpoch : (s.countCycles n).ramEpoch = s.ramEpoch := rfl
end countCyclesFields

section countOscTicksFields
variable (n : Nat) (s : State)
@[simp] theorem State.countOscTicks_acc : (s.countOscTicks n).acc = s.acc := rfl
@[simp] theorem State.countOscTicks_pc : (s.countOscTicks n).pc = s.pc := rfl
@[simp] theorem State.countOscTicks_stack : (s.countOscTicks n).stack = s.stack := rfl
@[simp] theorem State.countOscTicks_sp : (s.countOscTicks n).sp = s.sp := rfl
@[simp] theorem State.countOscTicks_c : (s.countOscTicks n).c = s.c := rfl
@[simp] theorem State.countOscTicks_ac : (s.countOscTicks n).ac = s.ac := rfl
@[simp] theorem State.countOscTicks_z : (s.countOscTicks n).z = s.z := rfl
@[simp] theorem State.countOscTicks_ov : (s.countOscTicks n).ov = s.ov := rfl
@[simp] theorem State.countOscTicks_pdf : (s.countOscTicks n).pdf = s.pdf := rfl
@[simp] theorem State.countOscTicks_tout : (s.countOscTicks n).tout = s.tout := rfl
@[simp] theorem State.countOscTicks_mp : (s.countOscTicks n).mp = s.mp := rfl
@[simp] theorem State.countOscTicks_tblp : (s.countOscTicks n).tblp = s.tblp := rfl
@[simp] theorem State.countOscTicks_tblh : (s.countOscTicks n).tblh = s.tblh := rfl
@[simp] theorem State.countOscTicks_wdts : (s.countOscTicks n).wdts = s.wdts := rfl
@[simp] theorem State.countOscTicks_pa : (s.countOscTicks n).pa = s.pa := rfl
@[simp] theorem State.countOscTicks_pac : (s.countOscTicks n).pac = s.pac := rfl
@[simp] theorem State.countOscTicks_pb : (s.countOscTicks n).pb = s.pb := rfl
@[simp] theorem State.countOscTicks_pbc : (s.countOscTicks n).pbc = s.pbc := rfl
@[simp] theorem State.countOscTicks_ram : (s.countOscTicks n).ram = s.ram := rfl
@[simp] theorem State.countOscTicks_wf1 : (s.countOscTicks n).wf1 = s.wf1 := rfl
@[simp] theorem State.countOscTicks_wf2 : (s.countOscTicks n).wf2 = s.wf2 := rfl
@[simp] theorem State.countOscTicks_emi : (s.countOscTicks n).emi = s.emi := rfl
@[simp] theorem State.countOscTicks_mode : (s.countOscTicks n).mode = s.mode := rfl
@[simp] theorem State.countOscTicks_rom : (s.countOscTicks n).rom = s.rom := rfl
@[simp] theorem State.countOscTicks_params : (s.countOscTicks n).params = s.params := rfl
@[simp] theorem State.countOscTicks_wsChanged : (s.countOscTicks n).wsChanged = s.wsChanged := rfl
@[simp] theorem State.countOscTicks_env : (s.countOscTicks n).env = s.env := rfl
@[simp] theorem State.countOscTicks_time : (s.countOscTicks n).time = s.time := rfl
@[simp] theorem State.countOscTicks_ramEpoch : (s.countOscTicks n).ramEpoch = s.ramEpoch := rfl
end countOscTicksFields

section clearWatchdogFields
variable (s : State)
@[simp] theorem State.clearWatchdog_acc : (s.clearWatchdog).acc = s.acc := rfl
@[simp] theorem State.clearWatchdog_pc : (s.clearWatchdog).pc = s.pc := rfl
@[simp] theorem State.clearWatchdog_stack : (s.clearWatchdog).stack = s.stack := rfl
@[simp] theorem State.clearWatchdog_sp : (s.clearWatchdog).sp = s.sp := rfl
@[simp] theorem State.clearWatchdog_c : (s.clearWatchdog).c = s.c := rfl
@[simp] theorem State.clearWatchdog_ac : (s.clearWatchdog).ac = s.ac := rfl
@[simp] theorem State.clearWatchdog_z : (s.clearWatchdog).z = s.z := rfl
@[simp] theorem State.clearWatchdog_ov : (s.clearWatchdog).ov = s.ov := rfl
@[simp] theorem State.clearWatchdog_pdf : (s.clearWatchdog).pdf = s.pdf := rfl
@[simp] theorem State.clearWatchdog_tout : (s.clearWatchdog).tout = s.tout := rfl
@[simp] theorem State.clearWatchdog_mp : (s.clearWatchdog).mp = s.mp := rfl
@[simp] theorem State.clearWatchdog_tblp : (s.clearWatchdog).tblp = s.tblp := rfl
@[simp] theorem State.clearWatchdog_tblh : (s.clearWatchdog).tblh = s.tblh := rfl
@[simp] theorem State.clearWatchdog_wdts : (s.clearWatchdog).wdts = s.wdts := rfl
@[simp] theorem State.clearWatchdog_pa : (s.clearWatchdog).pa = s.pa := rfl
@[simp] theorem State.clearWatchdog_pac : (s.clearWatchdog).pac = s.pac := rfl
@[simp] theorem State.clearWatchdog_pb : (s.clearWatchdog).pb = s.pb := rfl
@[simp] theorem State.clearWatchdog_pbc : (s.clearWatchdog).pbc = s.pbc := rfl
@[simp] theorem State.clearWatchdog_ram : (s.clearWatchdog).ram = s.ram := rfl
@[simp] theorem State.clearWatchdog_wdt : (s.clearWatchdog).wdt = 0 := rfl
@[simp] theorem State.clearWatchdog_wf1 : (s.clearWatchdog).wf1 = s.wf1 := rfl
@[simp] theorem State.clearWatchdog_wf2 : (s.clearWatchdog).wf2 = s.wf2 := rfl
@[simp] theorem State.clearWatchdog_emi : (s.clearWatchdog).emi = s.emi := rfl
@[simp] theorem State.clearWatchdog_mode : (s.clearWatchdog).mode = s.mode := rfl
@[simp] theorem State.clearWatchdog_rom : (s.clearWatchdog).rom = s.rom := rfl
@[simp] theorem State.clearWatchdog_params : (s.clearWatchdog).params = s.params := rfl
@[simp] theorem State.clearWatchdog_wsChanged : (s.clearWatchdog).wsChanged = false := rfl
@[simp] theorem State.clearWatchdog_env : (s.clearWatchdog).env = s.env := rfl
@[simp] theorem State.clearWatchdog_time : (s.clearWatchdog).time = s.time := rfl
@[simp] theorem State.clearWatchdog_ramEpoch : (s.clearWatchdog).ramEpoch = s.ramEpoch := rfl
end clearWatchdogFields

section startInstrFields
variable (n : Nat) (s : State)
@[simp] theorem State.startInstr_acc : (s.startInstr n).acc = s.acc := rfl
@[simp] theorem State.startInstr_pc : (s.startInstr n).pc = s.pc + 1#10 := rfl
@[simp] theorem State.startInstr_stack : (s.startInstr n).stack = s.stack := rfl
@[simp] theorem State.startInstr_sp : (s.startInstr n).sp = s.sp := rfl
@[simp] theorem State.startInstr_c : (s.startInstr n).c = s.c := rfl
@[simp] theorem State.startInstr_ac : (s.startInstr n).ac = s.ac := rfl
@[simp] theorem State.startInstr_z : (s.startInstr n).z = s.z := rfl
@[simp] theorem State.startInstr_ov : (s.startInstr n).ov = s.ov := rfl
@[simp] theorem State.startInstr_pdf : (s.startInstr n).pdf = s.pdf := rfl
@[simp] theorem State.startInstr_tout : (s.startInstr n).tout = s.tout := rfl
@[simp] theorem State.startInstr_mp : (s.startInstr n).mp = s.mp := rfl
@[simp] theorem State.startInstr_tblp : (s.startInstr n).tblp = s.tblp := rfl
@[simp] theorem State.startInstr_tblh : (s.startInstr n).tblh = s.tblh := rfl
@[simp] theorem State.startInstr_wdts : (s.startInstr n).wdts = s.wdts := rfl
@[simp] theorem State.startInstr_pa : (s.startInstr n).pa = s.pa := rfl
@[simp] theorem State.startInstr_pac : (s.startInstr n).pac = s.pac := rfl
@[simp] theorem State.startInstr_pb : (s.startInstr n).pb = s.pb := rfl
@[simp] theorem State.startInstr_pbc : (s.startInstr n).pbc = s.pbc := rfl
@[simp] theorem State.startInstr_ram : (s.startInstr n).ram = s.ram := rfl
@[simp] theorem State.startInstr_wdt : (s.startInstr n).wdt = (s.countCycles n).wdt := rfl
@[simp] theorem State.startInstr_wf1 : (s.startInstr n).wf1 = s.wf1 := rfl
@[simp] theorem State.startInstr_wf2 : (s.startInstr n).wf2 = s.wf2 := rfl
@[simp] theorem State.startInstr_emi : (s.startInstr n).emi = s.emi := rfl
@[simp] theorem State.startInstr_mode : (s.startInstr n).mode = s.mode := rfl
@[simp] theorem State.startInstr_rom : (s.startInstr n).rom = s.rom := rfl
@[simp] theorem State.startInstr_params : (s.startInstr n).params = s.params := rfl
@[simp] theorem State.startInstr_wsChanged : (s.startInstr n).wsChanged = s.wsChanged := rfl
@[simp] theorem State.startInstr_env : (s.startInstr n).env = s.env := rfl
@[simp] theorem State.startInstr_time : (s.startInstr n).time = s.time := rfl
@[simp] theorem State.startInstr_ramEpoch : (s.startInstr n).ramEpoch = s.ramEpoch := rfl
end startInstrFields

section skipFields
variable (s : State)
@[simp] theorem State.skip_acc : (s.skip).acc = s.acc := rfl
@[simp] theorem State.skip_pc : (s.skip).pc = s.pc + 1#10 := rfl
@[simp] theorem State.skip_stack : (s.skip).stack = s.stack := rfl
@[simp] theorem State.skip_sp : (s.skip).sp = s.sp := rfl
@[simp] theorem State.skip_c : (s.skip).c = s.c := rfl
@[simp] theorem State.skip_ac : (s.skip).ac = s.ac := rfl
@[simp] theorem State.skip_z : (s.skip).z = s.z := rfl
@[simp] theorem State.skip_ov : (s.skip).ov = s.ov := rfl
@[simp] theorem State.skip_pdf : (s.skip).pdf = s.pdf := rfl
@[simp] theorem State.skip_tout : (s.skip).tout = s.tout := rfl
@[simp] theorem State.skip_mp : (s.skip).mp = s.mp := rfl
@[simp] theorem State.skip_tblp : (s.skip).tblp = s.tblp := rfl
@[simp] theorem State.skip_tblh : (s.skip).tblh = s.tblh := rfl
@[simp] theorem State.skip_wdts : (s.skip).wdts = s.wdts := rfl
@[simp] theorem State.skip_pa : (s.skip).pa = s.pa := rfl
@[simp] theorem State.skip_pac : (s.skip).pac = s.pac := rfl
@[simp] theorem State.skip_pb : (s.skip).pb = s.pb := rfl
@[simp] theorem State.skip_pbc : (s.skip).pbc = s.pbc := rfl
@[simp] theorem State.skip_ram : (s.skip).ram = s.ram := rfl
@[simp] theorem State.skip_wdt : (s.skip).wdt = (s.countCycles 1).wdt := rfl
@[simp] theorem State.skip_wf1 : (s.skip).wf1 = s.wf1 := rfl
@[simp] theorem State.skip_wf2 : (s.skip).wf2 = s.wf2 := rfl
@[simp] theorem State.skip_emi : (s.skip).emi = s.emi := rfl
@[simp] theorem State.skip_mode : (s.skip).mode = s.mode := rfl
@[simp] theorem State.skip_rom : (s.skip).rom = s.rom := rfl
@[simp] theorem State.skip_params : (s.skip).params = s.params := rfl
@[simp] theorem State.skip_wsChanged : (s.skip).wsChanged = s.wsChanged := rfl
@[simp] theorem State.skip_env : (s.skip).env = s.env := rfl
@[simp] theorem State.skip_time : (s.skip).time = s.time := rfl
@[simp] theorem State.skip_ramEpoch : (s.skip).ramEpoch = s.ramEpoch := rfl
end skipFields

section jumpToFields
variable (a : ProgAddr) (s : State)
@[simp] theorem State.jumpTo_acc : (s.jumpTo a).acc = s.acc := rfl
@[simp] theorem State.jumpTo_pc : (s.jumpTo a).pc = a := rfl
@[simp] theorem State.jumpTo_stack : (s.jumpTo a).stack = s.stack := rfl
@[simp] theorem State.jumpTo_sp : (s.jumpTo a).sp = s.sp := rfl
@[simp] theorem State.jumpTo_c : (s.jumpTo a).c = s.c := rfl
@[simp] theorem State.jumpTo_ac : (s.jumpTo a).ac = s.ac := rfl
@[simp] theorem State.jumpTo_z : (s.jumpTo a).z = s.z := rfl
@[simp] theorem State.jumpTo_ov : (s.jumpTo a).ov = s.ov := rfl
@[simp] theorem State.jumpTo_pdf : (s.jumpTo a).pdf = s.pdf := rfl
@[simp] theorem State.jumpTo_tout : (s.jumpTo a).tout = s.tout := rfl
@[simp] theorem State.jumpTo_mp : (s.jumpTo a).mp = s.mp := rfl
@[simp] theorem State.jumpTo_tblp : (s.jumpTo a).tblp = s.tblp := rfl
@[simp] theorem State.jumpTo_tblh : (s.jumpTo a).tblh = s.tblh := rfl
@[simp] theorem State.jumpTo_wdts : (s.jumpTo a).wdts = s.wdts := rfl
@[simp] theorem State.jumpTo_pa : (s.jumpTo a).pa = s.pa := rfl
@[simp] theorem State.jumpTo_pac : (s.jumpTo a).pac = s.pac := rfl
@[simp] theorem State.jumpTo_pb : (s.jumpTo a).pb = s.pb := rfl
@[simp] theorem State.jumpTo_pbc : (s.jumpTo a).pbc = s.pbc := rfl
@[simp] theorem State.jumpTo_ram : (s.jumpTo a).ram = s.ram := rfl
@[simp] theorem State.jumpTo_wdt : (s.jumpTo a).wdt = s.wdt := rfl
@[simp] theorem State.jumpTo_wf1 : (s.jumpTo a).wf1 = s.wf1 := rfl
@[simp] theorem State.jumpTo_wf2 : (s.jumpTo a).wf2 = s.wf2 := rfl
@[simp] theorem State.jumpTo_emi : (s.jumpTo a).emi = s.emi := rfl
@[simp] theorem State.jumpTo_mode : (s.jumpTo a).mode = s.mode := rfl
@[simp] theorem State.jumpTo_rom : (s.jumpTo a).rom = s.rom := rfl
@[simp] theorem State.jumpTo_params : (s.jumpTo a).params = s.params := rfl
@[simp] theorem State.jumpTo_wsChanged : (s.jumpTo a).wsChanged = s.wsChanged := rfl
@[simp] theorem State.jumpTo_env : (s.jumpTo a).env = s.env := rfl
@[simp] theorem State.jumpTo_time : (s.jumpTo a).time = s.time := rfl
@[simp] theorem State.jumpTo_ramEpoch : (s.jumpTo a).ramEpoch = s.ramEpoch := rfl
end jumpToFields

section pushCallFields
variable (a : ProgAddr) (s : State)
@[simp] theorem State.pushCall_acc : (s.pushCall a).acc = s.acc := rfl
@[simp] theorem State.pushCall_pc : (s.pushCall a).pc = a := rfl
@[simp] theorem State.pushCall_stack : (s.pushCall a).stack = s.pc := rfl
@[simp] theorem State.pushCall_sp : (s.pushCall a).sp = 1 := rfl
@[simp] theorem State.pushCall_c : (s.pushCall a).c = s.c := rfl
@[simp] theorem State.pushCall_ac : (s.pushCall a).ac = s.ac := rfl
@[simp] theorem State.pushCall_z : (s.pushCall a).z = s.z := rfl
@[simp] theorem State.pushCall_ov : (s.pushCall a).ov = s.ov := rfl
@[simp] theorem State.pushCall_pdf : (s.pushCall a).pdf = s.pdf := rfl
@[simp] theorem State.pushCall_tout : (s.pushCall a).tout = s.tout := rfl
@[simp] theorem State.pushCall_mp : (s.pushCall a).mp = s.mp := rfl
@[simp] theorem State.pushCall_tblp : (s.pushCall a).tblp = s.tblp := rfl
@[simp] theorem State.pushCall_tblh : (s.pushCall a).tblh = s.tblh := rfl
@[simp] theorem State.pushCall_wdts : (s.pushCall a).wdts = s.wdts := rfl
@[simp] theorem State.pushCall_pa : (s.pushCall a).pa = s.pa := rfl
@[simp] theorem State.pushCall_pac : (s.pushCall a).pac = s.pac := rfl
@[simp] theorem State.pushCall_pb : (s.pushCall a).pb = s.pb := rfl
@[simp] theorem State.pushCall_pbc : (s.pushCall a).pbc = s.pbc := rfl
@[simp] theorem State.pushCall_ram : (s.pushCall a).ram = s.ram := rfl
@[simp] theorem State.pushCall_wdt : (s.pushCall a).wdt = s.wdt := rfl
@[simp] theorem State.pushCall_wf1 : (s.pushCall a).wf1 = s.wf1 := rfl
@[simp] theorem State.pushCall_wf2 : (s.pushCall a).wf2 = s.wf2 := rfl
@[simp] theorem State.pushCall_emi : (s.pushCall a).emi = s.emi := rfl
@[simp] theorem State.pushCall_mode : (s.pushCall a).mode = s.mode := rfl
@[simp] theorem State.pushCall_rom : (s.pushCall a).rom = s.rom := rfl
@[simp] theorem State.pushCall_params : (s.pushCall a).params = s.params := rfl
@[simp] theorem State.pushCall_wsChanged : (s.pushCall a).wsChanged = s.wsChanged := rfl
@[simp] theorem State.pushCall_env : (s.pushCall a).env = s.env := rfl
@[simp] theorem State.pushCall_time : (s.pushCall a).time = s.time := rfl
@[simp] theorem State.pushCall_ramEpoch : (s.pushCall a).ramEpoch = s.ramEpoch := rfl
end pushCallFields

section popReturnFields
variable (s : State)
@[simp] theorem State.popReturn_acc : (s.popReturn).acc = s.acc := rfl
@[simp] theorem State.popReturn_pc : (s.popReturn).pc = s.stack := rfl
@[simp] theorem State.popReturn_stack : (s.popReturn).stack = s.stack := rfl
@[simp] theorem State.popReturn_sp : (s.popReturn).sp = 0 := rfl
@[simp] theorem State.popReturn_c : (s.popReturn).c = s.c := rfl
@[simp] theorem State.popReturn_ac : (s.popReturn).ac = s.ac := rfl
@[simp] theorem State.popReturn_z : (s.popReturn).z = s.z := rfl
@[simp] theorem State.popReturn_ov : (s.popReturn).ov = s.ov := rfl
@[simp] theorem State.popReturn_pdf : (s.popReturn).pdf = s.pdf := rfl
@[simp] theorem State.popReturn_tout : (s.popReturn).tout = s.tout := rfl
@[simp] theorem State.popReturn_mp : (s.popReturn).mp = s.mp := rfl
@[simp] theorem State.popReturn_tblp : (s.popReturn).tblp = s.tblp := rfl
@[simp] theorem State.popReturn_tblh : (s.popReturn).tblh = s.tblh := rfl
@[simp] theorem State.popReturn_wdts : (s.popReturn).wdts = s.wdts := rfl
@[simp] theorem State.popReturn_pa : (s.popReturn).pa = s.pa := rfl
@[simp] theorem State.popReturn_pac : (s.popReturn).pac = s.pac := rfl
@[simp] theorem State.popReturn_pb : (s.popReturn).pb = s.pb := rfl
@[simp] theorem State.popReturn_pbc : (s.popReturn).pbc = s.pbc := rfl
@[simp] theorem State.popReturn_ram : (s.popReturn).ram = s.ram := rfl
@[simp] theorem State.popReturn_wdt : (s.popReturn).wdt = s.wdt := rfl
@[simp] theorem State.popReturn_wf1 : (s.popReturn).wf1 = s.wf1 := rfl
@[simp] theorem State.popReturn_wf2 : (s.popReturn).wf2 = s.wf2 := rfl
@[simp] theorem State.popReturn_emi : (s.popReturn).emi = s.emi := rfl
@[simp] theorem State.popReturn_mode : (s.popReturn).mode = s.mode := rfl
@[simp] theorem State.popReturn_rom : (s.popReturn).rom = s.rom := rfl
@[simp] theorem State.popReturn_params : (s.popReturn).params = s.params := rfl
@[simp] theorem State.popReturn_wsChanged : (s.popReturn).wsChanged = s.wsChanged := rfl
@[simp] theorem State.popReturn_env : (s.popReturn).env = s.env := rfl
@[simp] theorem State.popReturn_time : (s.popReturn).time = s.time := rfl
@[simp] theorem State.popReturn_ramEpoch : (s.popReturn).ramEpoch = s.ramEpoch := rfl
end popReturnFields

section setAccFields
variable (v : Byte) (s : State)
@[simp] theorem State.setAcc_acc : (s.setAcc v).acc = v := rfl
@[simp] theorem State.setAcc_pc : (s.setAcc v).pc = s.pc := rfl
@[simp] theorem State.setAcc_stack : (s.setAcc v).stack = s.stack := rfl
@[simp] theorem State.setAcc_sp : (s.setAcc v).sp = s.sp := rfl
@[simp] theorem State.setAcc_c : (s.setAcc v).c = s.c := rfl
@[simp] theorem State.setAcc_ac : (s.setAcc v).ac = s.ac := rfl
@[simp] theorem State.setAcc_z : (s.setAcc v).z = s.z := rfl
@[simp] theorem State.setAcc_ov : (s.setAcc v).ov = s.ov := rfl
@[simp] theorem State.setAcc_pdf : (s.setAcc v).pdf = s.pdf := rfl
@[simp] theorem State.setAcc_tout : (s.setAcc v).tout = s.tout := rfl
@[simp] theorem State.setAcc_mp : (s.setAcc v).mp = s.mp := rfl
@[simp] theorem State.setAcc_tblp : (s.setAcc v).tblp = s.tblp := rfl
@[simp] theorem State.setAcc_tblh : (s.setAcc v).tblh = s.tblh := rfl
@[simp] theorem State.setAcc_wdts : (s.setAcc v).wdts = s.wdts := rfl
@[simp] theorem State.setAcc_pa : (s.setAcc v).pa = s.pa := rfl
@[simp] theorem State.setAcc_pac : (s.setAcc v).pac = s.pac := rfl
@[simp] theorem State.setAcc_pb : (s.setAcc v).pb = s.pb := rfl
@[simp] theorem State.setAcc_pbc : (s.setAcc v).pbc = s.pbc := rfl
@[simp] theorem State.setAcc_ram : (s.setAcc v).ram = s.ram := rfl
@[simp] theorem State.setAcc_wdt : (s.setAcc v).wdt = s.wdt := rfl
@[simp] theorem State.setAcc_wf1 : (s.setAcc v).wf1 = s.wf1 := rfl
@[simp] theorem State.setAcc_wf2 : (s.setAcc v).wf2 = s.wf2 := rfl
@[simp] theorem State.setAcc_emi : (s.setAcc v).emi = s.emi := rfl
@[simp] theorem State.setAcc_mode : (s.setAcc v).mode = s.mode := rfl
@[simp] theorem State.setAcc_rom : (s.setAcc v).rom = s.rom := rfl
@[simp] theorem State.setAcc_params : (s.setAcc v).params = s.params := rfl
@[simp] theorem State.setAcc_wsChanged : (s.setAcc v).wsChanged = s.wsChanged := rfl
@[simp] theorem State.setAcc_env : (s.setAcc v).env = s.env := rfl
@[simp] theorem State.setAcc_time : (s.setAcc v).time = s.time := rfl
@[simp] theorem State.setAcc_ramEpoch : (s.setAcc v).ramEpoch = s.ramEpoch := rfl
end setAccFields

section drawMarksFields
variable (s : State)
@[simp] theorem State.drawMarks_acc : (s.drawMarks).acc = s.acc := rfl
@[simp] theorem State.drawMarks_pc : (s.drawMarks).pc = s.pc := rfl
@[simp] theorem State.drawMarks_stack : (s.drawMarks).stack = s.stack := rfl
@[simp] theorem State.drawMarks_sp : (s.drawMarks).sp = s.sp := rfl
@[simp] theorem State.drawMarks_c : (s.drawMarks).c = s.c := rfl
@[simp] theorem State.drawMarks_ac : (s.drawMarks).ac = s.ac := rfl
@[simp] theorem State.drawMarks_z : (s.drawMarks).z = s.z := rfl
@[simp] theorem State.drawMarks_ov : (s.drawMarks).ov = s.ov := rfl
@[simp] theorem State.drawMarks_pdf : (s.drawMarks).pdf = s.pdf := rfl
@[simp] theorem State.drawMarks_tout : (s.drawMarks).tout = s.tout := rfl
@[simp] theorem State.drawMarks_mp : (s.drawMarks).mp = s.mp := rfl
@[simp] theorem State.drawMarks_tblp : (s.drawMarks).tblp = s.tblp := rfl
@[simp] theorem State.drawMarks_tblh : (s.drawMarks).tblh = s.tblh := rfl
@[simp] theorem State.drawMarks_wdts : (s.drawMarks).wdts = s.wdts := rfl
@[simp] theorem State.drawMarks_pa : (s.drawMarks).pa = s.pa := rfl
@[simp] theorem State.drawMarks_pac : (s.drawMarks).pac = s.pac := rfl
@[simp] theorem State.drawMarks_pb : (s.drawMarks).pb = s.pb := rfl
@[simp] theorem State.drawMarks_pbc : (s.drawMarks).pbc = s.pbc := rfl
@[simp] theorem State.drawMarks_ram : (s.drawMarks).ram = s.ram := rfl
@[simp] theorem State.drawMarks_wdt : (s.drawMarks).wdt = s.wdt := rfl
@[simp] theorem State.drawMarks_wf1 : (s.drawMarks).wf1 = Config.wf1Draw s.drawIndex := rfl
@[simp] theorem State.drawMarks_wf2 : (s.drawMarks).wf2 = Config.wf2Draw s.drawIndex := rfl
@[simp] theorem State.drawMarks_emi : (s.drawMarks).emi = s.emi := rfl
@[simp] theorem State.drawMarks_mode : (s.drawMarks).mode = s.mode := rfl
@[simp] theorem State.drawMarks_rom : (s.drawMarks).rom = s.rom := rfl
@[simp] theorem State.drawMarks_params : (s.drawMarks).params = s.params := rfl
@[simp] theorem State.drawMarks_wsChanged : (s.drawMarks).wsChanged = s.wsChanged := rfl
@[simp] theorem State.drawMarks_env : (s.drawMarks).env = s.env := rfl
@[simp] theorem State.drawMarks_time : (s.drawMarks).time = s.time := rfl
@[simp] theorem State.drawMarks_ramEpoch : (s.drawMarks).ramEpoch = s.ramEpoch := rfl
end drawMarksFields

section restartFields
variable (s : State)
@[simp] theorem State.restart_acc : (s.restart).acc = s.acc := rfl
@[simp] theorem State.restart_pc : (s.restart).pc = 0x000#10 := rfl
@[simp] theorem State.restart_stack : (s.restart).stack = s.stack := rfl
@[simp] theorem State.restart_sp : (s.restart).sp = 0 := rfl
@[simp] theorem State.restart_c : (s.restart).c = s.c := rfl
@[simp] theorem State.restart_ac : (s.restart).ac = s.ac := rfl
@[simp] theorem State.restart_z : (s.restart).z = s.z := rfl
@[simp] theorem State.restart_ov : (s.restart).ov = s.ov := rfl
@[simp] theorem State.restart_pdf : (s.restart).pdf = s.pdf := rfl
@[simp] theorem State.restart_tout : (s.restart).tout = s.tout := rfl
@[simp] theorem State.restart_mp : (s.restart).mp = s.mp := rfl
@[simp] theorem State.restart_tblp : (s.restart).tblp = s.tblp := rfl
@[simp] theorem State.restart_tblh : (s.restart).tblh = s.tblh := rfl
@[simp] theorem State.restart_wdts : (s.restart).wdts = s.wdts := rfl
@[simp] theorem State.restart_pa : (s.restart).pa = s.pa := rfl
@[simp] theorem State.restart_pac : (s.restart).pac = s.pac := rfl
@[simp] theorem State.restart_pb : (s.restart).pb = s.pb := rfl
@[simp] theorem State.restart_pbc : (s.restart).pbc = s.pbc := rfl
@[simp] theorem State.restart_ram : (s.restart).ram = s.ram := rfl
@[simp] theorem State.restart_wdt : (s.restart).wdt = 0 := rfl
@[simp] theorem State.restart_wf1 : (s.restart).wf1 = Config.wf1Draw s.drawIndex := rfl
@[simp] theorem State.restart_wf2 : (s.restart).wf2 = Config.wf2Draw s.drawIndex := rfl
@[simp] theorem State.restart_emi : (s.restart).emi = Config.emiDraw s.drawIndex := rfl
@[simp] theorem State.restart_mode : (s.restart).mode = .run := rfl
@[simp] theorem State.restart_rom : (s.restart).rom = s.rom := rfl
@[simp] theorem State.restart_params : (s.restart).params = s.params := rfl
@[simp] theorem State.restart_wsChanged : (s.restart).wsChanged = false := rfl
@[simp] theorem State.restart_env : (s.restart).env = s.env := rfl
@[simp] theorem State.restart_time : (s.restart).time = s.time := rfl
@[simp] theorem State.restart_ramEpoch : (s.restart).ramEpoch = s.ramEpoch := rfl
end restartFields

section initPortsFields
variable (s : State)
@[simp] theorem State.initPorts_acc : (s.initPorts).acc = s.acc := rfl
@[simp] theorem State.initPorts_pc : (s.initPorts).pc = s.pc := rfl
@[simp] theorem State.initPorts_stack : (s.initPorts).stack = s.stack := rfl
@[simp] theorem State.initPorts_sp : (s.initPorts).sp = s.sp := rfl
@[simp] theorem State.initPorts_c : (s.initPorts).c = s.c := rfl
@[simp] theorem State.initPorts_ac : (s.initPorts).ac = s.ac := rfl
@[simp] theorem State.initPorts_z : (s.initPorts).z = s.z := rfl
@[simp] theorem State.initPorts_ov : (s.initPorts).ov = s.ov := rfl
@[simp] theorem State.initPorts_pdf : (s.initPorts).pdf = s.pdf := rfl
@[simp] theorem State.initPorts_tout : (s.initPorts).tout = s.tout := rfl
@[simp] theorem State.initPorts_mp : (s.initPorts).mp = s.mp := rfl
@[simp] theorem State.initPorts_tblp : (s.initPorts).tblp = s.tblp := rfl
@[simp] theorem State.initPorts_tblh : (s.initPorts).tblh = s.tblh := rfl
@[simp] theorem State.initPorts_wdts : (s.initPorts).wdts = 0x07#8 := rfl
@[simp] theorem State.initPorts_pa : (s.initPorts).pa = 0xFF#8 := rfl
@[simp] theorem State.initPorts_pac : (s.initPorts).pac = 0xFF#8 := rfl
@[simp] theorem State.initPorts_pb : (s.initPorts).pb = 0b111#3 := rfl
@[simp] theorem State.initPorts_pbc : (s.initPorts).pbc = 0b111#3 := rfl
@[simp] theorem State.initPorts_ram : (s.initPorts).ram = s.ram := rfl
@[simp] theorem State.initPorts_wdt : (s.initPorts).wdt = s.wdt := rfl
@[simp] theorem State.initPorts_wf1 : (s.initPorts).wf1 = s.wf1 := rfl
@[simp] theorem State.initPorts_wf2 : (s.initPorts).wf2 = s.wf2 := rfl
@[simp] theorem State.initPorts_emi : (s.initPorts).emi = s.emi := rfl
@[simp] theorem State.initPorts_mode : (s.initPorts).mode = s.mode := rfl
@[simp] theorem State.initPorts_rom : (s.initPorts).rom = s.rom := rfl
@[simp] theorem State.initPorts_params : (s.initPorts).params = s.params := rfl
@[simp] theorem State.initPorts_wsChanged : (s.initPorts).wsChanged = s.wsChanged := rfl
@[simp] theorem State.initPorts_env : (s.initPorts).env = s.env := rfl
@[simp] theorem State.initPorts_time : (s.initPorts).time = s.time := rfl
@[simp] theorem State.initPorts_ramEpoch : (s.initPorts).ramEpoch = s.ramEpoch := rfl
end initPortsFields

section loseRamFields
variable (s : State)
@[simp] theorem State.loseRam_acc : (s.loseRam).acc = s.acc := rfl
@[simp] theorem State.loseRam_pc : (s.loseRam).pc = s.pc := rfl
@[simp] theorem State.loseRam_stack : (s.loseRam).stack = s.stack := rfl
@[simp] theorem State.loseRam_sp : (s.loseRam).sp = s.sp := rfl
@[simp] theorem State.loseRam_c : (s.loseRam).c = s.c := rfl
@[simp] theorem State.loseRam_ac : (s.loseRam).ac = s.ac := rfl
@[simp] theorem State.loseRam_z : (s.loseRam).z = s.z := rfl
@[simp] theorem State.loseRam_ov : (s.loseRam).ov = s.ov := rfl
@[simp] theorem State.loseRam_pdf : (s.loseRam).pdf = s.pdf := rfl
@[simp] theorem State.loseRam_tout : (s.loseRam).tout = s.tout := rfl
@[simp] theorem State.loseRam_mp : (s.loseRam).mp = s.mp := rfl
@[simp] theorem State.loseRam_tblp : (s.loseRam).tblp = s.tblp := rfl
@[simp] theorem State.loseRam_tblh : (s.loseRam).tblh = s.tblh := rfl
@[simp] theorem State.loseRam_wdts : (s.loseRam).wdts = s.wdts := rfl
@[simp] theorem State.loseRam_pa : (s.loseRam).pa = s.pa := rfl
@[simp] theorem State.loseRam_pac : (s.loseRam).pac = s.pac := rfl
@[simp] theorem State.loseRam_pb : (s.loseRam).pb = s.pb := rfl
@[simp] theorem State.loseRam_pbc : (s.loseRam).pbc = s.pbc := rfl
@[simp] theorem State.loseRam_ram : (s.loseRam).ram = [] := rfl
@[simp] theorem State.loseRam_wdt : (s.loseRam).wdt = s.wdt := rfl
@[simp] theorem State.loseRam_wf1 : (s.loseRam).wf1 = s.wf1 := rfl
@[simp] theorem State.loseRam_wf2 : (s.loseRam).wf2 = s.wf2 := rfl
@[simp] theorem State.loseRam_emi : (s.loseRam).emi = s.emi := rfl
@[simp] theorem State.loseRam_mode : (s.loseRam).mode = s.mode := rfl
@[simp] theorem State.loseRam_rom : (s.loseRam).rom = s.rom := rfl
@[simp] theorem State.loseRam_params : (s.loseRam).params = s.params := rfl
@[simp] theorem State.loseRam_wsChanged : (s.loseRam).wsChanged = s.wsChanged := rfl
@[simp] theorem State.loseRam_env : (s.loseRam).env = s.env := rfl
@[simp] theorem State.loseRam_time : (s.loseRam).time = s.time := rfl
@[simp] theorem State.loseRam_ramEpoch : (s.loseRam).ramEpoch = s.ramEpoch + 1 := rfl
end loseRamFields

section loadPclFields
variable (v : Byte) (s : State)
@[simp] theorem State.loadPcl_acc : (s.loadPcl v).acc = s.acc := rfl
@[simp] theorem State.loadPcl_pc : (s.loadPcl v).pc = (s.pc.extractLsb' 8 2 ++ v : BitVec (2 + 8)) := rfl
@[simp] theorem State.loadPcl_stack : (s.loadPcl v).stack = s.stack := rfl
@[simp] theorem State.loadPcl_sp : (s.loadPcl v).sp = s.sp := rfl
@[simp] theorem State.loadPcl_c : (s.loadPcl v).c = s.c := rfl
@[simp] theorem State.loadPcl_ac : (s.loadPcl v).ac = s.ac := rfl
@[simp] theorem State.loadPcl_z : (s.loadPcl v).z = s.z := rfl
@[simp] theorem State.loadPcl_ov : (s.loadPcl v).ov = s.ov := rfl
@[simp] theorem State.loadPcl_pdf : (s.loadPcl v).pdf = s.pdf := rfl
@[simp] theorem State.loadPcl_tout : (s.loadPcl v).tout = s.tout := rfl
@[simp] theorem State.loadPcl_mp : (s.loadPcl v).mp = s.mp := rfl
@[simp] theorem State.loadPcl_tblp : (s.loadPcl v).tblp = s.tblp := rfl
@[simp] theorem State.loadPcl_tblh : (s.loadPcl v).tblh = s.tblh := rfl
@[simp] theorem State.loadPcl_wdts : (s.loadPcl v).wdts = s.wdts := rfl
@[simp] theorem State.loadPcl_pa : (s.loadPcl v).pa = s.pa := rfl
@[simp] theorem State.loadPcl_pac : (s.loadPcl v).pac = s.pac := rfl
@[simp] theorem State.loadPcl_pb : (s.loadPcl v).pb = s.pb := rfl
@[simp] theorem State.loadPcl_pbc : (s.loadPcl v).pbc = s.pbc := rfl
@[simp] theorem State.loadPcl_ram : (s.loadPcl v).ram = s.ram := rfl
@[simp] theorem State.loadPcl_wdt : (s.loadPcl v).wdt = (s.countCycles 1).wdt := rfl
@[simp] theorem State.loadPcl_wf1 : (s.loadPcl v).wf1 = s.wf1 := rfl
@[simp] theorem State.loadPcl_wf2 : (s.loadPcl v).wf2 = s.wf2 := rfl
@[simp] theorem State.loadPcl_emi : (s.loadPcl v).emi = s.emi := rfl
@[simp] theorem State.loadPcl_mode : (s.loadPcl v).mode = s.mode := rfl
@[simp] theorem State.loadPcl_rom : (s.loadPcl v).rom = s.rom := rfl
@[simp] theorem State.loadPcl_params : (s.loadPcl v).params = s.params := rfl
@[simp] theorem State.loadPcl_wsChanged : (s.loadPcl v).wsChanged = s.wsChanged := rfl
@[simp] theorem State.loadPcl_env : (s.loadPcl v).env = s.env := rfl
@[simp] theorem State.loadPcl_time : (s.loadPcl v).time = s.time := rfl
@[simp] theorem State.loadPcl_ramEpoch : (s.loadPcl v).ramEpoch = s.ramEpoch := rfl
end loadPclFields

section writeWdtsFields
variable (v : Byte) (s : State)
@[simp] theorem State.writeWdts_acc : (s.writeWdts v).acc = s.acc := rfl
@[simp] theorem State.writeWdts_pc : (s.writeWdts v).pc = s.pc := rfl
@[simp] theorem State.writeWdts_stack : (s.writeWdts v).stack = s.stack := rfl
@[simp] theorem State.writeWdts_sp : (s.writeWdts v).sp = s.sp := rfl
@[simp] theorem State.writeWdts_c : (s.writeWdts v).c = s.c := rfl
@[simp] theorem State.writeWdts_ac : (s.writeWdts v).ac = s.ac := rfl
@[simp] theorem State.writeWdts_z : (s.writeWdts v).z = s.z := rfl
@[simp] theorem State.writeWdts_ov : (s.writeWdts v).ov = s.ov := rfl
@[simp] theorem State.writeWdts_pdf : (s.writeWdts v).pdf = s.pdf := rfl
@[simp] theorem State.writeWdts_tout : (s.writeWdts v).tout = s.tout := rfl
@[simp] theorem State.writeWdts_mp : (s.writeWdts v).mp = s.mp := rfl
@[simp] theorem State.writeWdts_tblp : (s.writeWdts v).tblp = s.tblp := rfl
@[simp] theorem State.writeWdts_tblh : (s.writeWdts v).tblh = s.tblh := rfl
@[simp] theorem State.writeWdts_wdts : (s.writeWdts v).wdts = v := rfl
@[simp] theorem State.writeWdts_pa : (s.writeWdts v).pa = s.pa := rfl
@[simp] theorem State.writeWdts_pac : (s.writeWdts v).pac = s.pac := rfl
@[simp] theorem State.writeWdts_pb : (s.writeWdts v).pb = s.pb := rfl
@[simp] theorem State.writeWdts_pbc : (s.writeWdts v).pbc = s.pbc := rfl
@[simp] theorem State.writeWdts_ram : (s.writeWdts v).ram = s.ram := rfl
@[simp] theorem State.writeWdts_wdt : (s.writeWdts v).wdt = s.wdt := rfl
@[simp] theorem State.writeWdts_wf1 : (s.writeWdts v).wf1 = s.wf1 := rfl
@[simp] theorem State.writeWdts_wf2 : (s.writeWdts v).wf2 = s.wf2 := rfl
@[simp] theorem State.writeWdts_emi : (s.writeWdts v).emi = s.emi := rfl
@[simp] theorem State.writeWdts_mode : (s.writeWdts v).mode = s.mode := rfl
@[simp] theorem State.writeWdts_rom : (s.writeWdts v).rom = s.rom := rfl
@[simp] theorem State.writeWdts_params : (s.writeWdts v).params = s.params := rfl
@[simp] theorem State.writeWdts_wsChanged : (s.writeWdts v).wsChanged = (s.wsChanged || !(v.setWidth 3 == s.wdts.setWidth 3)) := rfl
@[simp] theorem State.writeWdts_env : (s.writeWdts v).env = s.env := rfl
@[simp] theorem State.writeWdts_time : (s.writeWdts v).time = s.time := rfl
@[simp] theorem State.writeWdts_ramEpoch : (s.writeWdts v).ramEpoch = s.ramEpoch := rfl
end writeWdtsFields

section wakeUpFields
variable (s : State)
@[simp] theorem State.wakeUp_acc : (s.wakeUp).acc = s.acc := rfl
@[simp] theorem State.wakeUp_pc : (s.wakeUp).pc = s.pc := rfl
@[simp] theorem State.wakeUp_stack : (s.wakeUp).stack = s.stack := rfl
@[simp] theorem State.wakeUp_sp : (s.wakeUp).sp = s.sp := rfl
@[simp] theorem State.wakeUp_c : (s.wakeUp).c = s.c := rfl
@[simp] theorem State.wakeUp_ac : (s.wakeUp).ac = s.ac := rfl
@[simp] theorem State.wakeUp_z : (s.wakeUp).z = s.z := rfl
@[simp] theorem State.wakeUp_ov : (s.wakeUp).ov = s.ov := rfl
@[simp] theorem State.wakeUp_pdf : (s.wakeUp).pdf = s.pdf := rfl
@[simp] theorem State.wakeUp_tout : (s.wakeUp).tout = s.tout := rfl
@[simp] theorem State.wakeUp_mp : (s.wakeUp).mp = s.mp := rfl
@[simp] theorem State.wakeUp_tblp : (s.wakeUp).tblp = s.tblp := rfl
@[simp] theorem State.wakeUp_tblh : (s.wakeUp).tblh = s.tblh := rfl
@[simp] theorem State.wakeUp_wdts : (s.wakeUp).wdts = s.wdts := rfl
@[simp] theorem State.wakeUp_pa : (s.wakeUp).pa = s.pa := rfl
@[simp] theorem State.wakeUp_pac : (s.wakeUp).pac = s.pac := rfl
@[simp] theorem State.wakeUp_pb : (s.wakeUp).pb = s.pb := rfl
@[simp] theorem State.wakeUp_pbc : (s.wakeUp).pbc = s.pbc := rfl
@[simp] theorem State.wakeUp_ram : (s.wakeUp).ram = s.ram := rfl
@[simp] theorem State.wakeUp_wdt : (s.wakeUp).wdt = s.wdt := rfl
@[simp] theorem State.wakeUp_wf1 : (s.wakeUp).wf1 = s.wf1 := rfl
@[simp] theorem State.wakeUp_wf2 : (s.wakeUp).wf2 = s.wf2 := rfl
@[simp] theorem State.wakeUp_emi : (s.wakeUp).emi = s.emi := rfl
@[simp] theorem State.wakeUp_mode : (s.wakeUp).mode = .run := rfl
@[simp] theorem State.wakeUp_rom : (s.wakeUp).rom = s.rom := rfl
@[simp] theorem State.wakeUp_params : (s.wakeUp).params = s.params := rfl
@[simp] theorem State.wakeUp_wsChanged : (s.wakeUp).wsChanged = s.wsChanged := rfl
@[simp] theorem State.wakeUp_env : (s.wakeUp).env = s.env := rfl
@[simp] theorem State.wakeUp_time : (s.wakeUp).time = s.time := rfl
@[simp] theorem State.wakeUp_ramEpoch : (s.wakeUp).ramEpoch = s.ramEpoch := rfl
end wakeUpFields

section clearPowerFlagsFields
variable (s : State)
@[simp] theorem State.clearPowerFlags_acc : (s.clearPowerFlags).acc = s.acc := rfl
@[simp] theorem State.clearPowerFlags_pc : (s.clearPowerFlags).pc = s.pc := rfl
@[simp] theorem State.clearPowerFlags_stack : (s.clearPowerFlags).stack = s.stack := rfl
@[simp] theorem State.clearPowerFlags_sp : (s.clearPowerFlags).sp = s.sp := rfl
@[simp] theorem State.clearPowerFlags_c : (s.clearPowerFlags).c = s.c := rfl
@[simp] theorem State.clearPowerFlags_ac : (s.clearPowerFlags).ac = s.ac := rfl
@[simp] theorem State.clearPowerFlags_z : (s.clearPowerFlags).z = s.z := rfl
@[simp] theorem State.clearPowerFlags_ov : (s.clearPowerFlags).ov = s.ov := rfl
@[simp] theorem State.clearPowerFlags_pdf : (s.clearPowerFlags).pdf = false := rfl
@[simp] theorem State.clearPowerFlags_tout : (s.clearPowerFlags).tout = false := rfl
@[simp] theorem State.clearPowerFlags_mp : (s.clearPowerFlags).mp = s.mp := rfl
@[simp] theorem State.clearPowerFlags_tblp : (s.clearPowerFlags).tblp = s.tblp := rfl
@[simp] theorem State.clearPowerFlags_tblh : (s.clearPowerFlags).tblh = s.tblh := rfl
@[simp] theorem State.clearPowerFlags_wdts : (s.clearPowerFlags).wdts = s.wdts := rfl
@[simp] theorem State.clearPowerFlags_pa : (s.clearPowerFlags).pa = s.pa := rfl
@[simp] theorem State.clearPowerFlags_pac : (s.clearPowerFlags).pac = s.pac := rfl
@[simp] theorem State.clearPowerFlags_pb : (s.clearPowerFlags).pb = s.pb := rfl
@[simp] theorem State.clearPowerFlags_pbc : (s.clearPowerFlags).pbc = s.pbc := rfl
@[simp] theorem State.clearPowerFlags_ram : (s.clearPowerFlags).ram = s.ram := rfl
@[simp] theorem State.clearPowerFlags_wdt : (s.clearPowerFlags).wdt = s.wdt := rfl
@[simp] theorem State.clearPowerFlags_wf1 : (s.clearPowerFlags).wf1 = s.wf1 := rfl
@[simp] theorem State.clearPowerFlags_wf2 : (s.clearPowerFlags).wf2 = s.wf2 := rfl
@[simp] theorem State.clearPowerFlags_emi : (s.clearPowerFlags).emi = s.emi := rfl
@[simp] theorem State.clearPowerFlags_mode : (s.clearPowerFlags).mode = s.mode := rfl
@[simp] theorem State.clearPowerFlags_rom : (s.clearPowerFlags).rom = s.rom := rfl
@[simp] theorem State.clearPowerFlags_params : (s.clearPowerFlags).params = s.params := rfl
@[simp] theorem State.clearPowerFlags_wsChanged : (s.clearPowerFlags).wsChanged = s.wsChanged := rfl
@[simp] theorem State.clearPowerFlags_env : (s.clearPowerFlags).env = s.env := rfl
@[simp] theorem State.clearPowerFlags_time : (s.clearPowerFlags).time = s.time := rfl
@[simp] theorem State.clearPowerFlags_ramEpoch : (s.clearPowerFlags).ramEpoch = s.ramEpoch := rfl
end clearPowerFlagsFields

section skipIfFields
variable (b : Bool) (s : State)
@[simp] theorem State.skipIf_acc : (s.skipIf b).acc = s.acc := by unfold State.skipIf; split <;> rfl
@[simp] theorem State.skipIf_stack : (s.skipIf b).stack = s.stack := by unfold State.skipIf; split <;> rfl
@[simp] theorem State.skipIf_sp : (s.skipIf b).sp = s.sp := by unfold State.skipIf; split <;> rfl
@[simp] theorem State.skipIf_c : (s.skipIf b).c = s.c := by unfold State.skipIf; split <;> rfl
@[simp] theorem State.skipIf_ac : (s.skipIf b).ac = s.ac := by unfold State.skipIf; split <;> rfl
@[simp] theorem State.skipIf_z : (s.skipIf b).z = s.z := by unfold State.skipIf; split <;> rfl
@[simp] theorem State.skipIf_ov : (s.skipIf b).ov = s.ov := by unfold State.skipIf; split <;> rfl
@[simp] theorem State.skipIf_pdf : (s.skipIf b).pdf = s.pdf := by unfold State.skipIf; split <;> rfl
@[simp] theorem State.skipIf_tout : (s.skipIf b).tout = s.tout := by unfold State.skipIf; split <;> rfl
@[simp] theorem State.skipIf_mp : (s.skipIf b).mp = s.mp := by unfold State.skipIf; split <;> rfl
@[simp] theorem State.skipIf_tblp : (s.skipIf b).tblp = s.tblp := by unfold State.skipIf; split <;> rfl
@[simp] theorem State.skipIf_tblh : (s.skipIf b).tblh = s.tblh := by unfold State.skipIf; split <;> rfl
@[simp] theorem State.skipIf_wdts : (s.skipIf b).wdts = s.wdts := by unfold State.skipIf; split <;> rfl
@[simp] theorem State.skipIf_pa : (s.skipIf b).pa = s.pa := by unfold State.skipIf; split <;> rfl
@[simp] theorem State.skipIf_pac : (s.skipIf b).pac = s.pac := by unfold State.skipIf; split <;> rfl
@[simp] theorem State.skipIf_pb : (s.skipIf b).pb = s.pb := by unfold State.skipIf; split <;> rfl
@[simp] theorem State.skipIf_pbc : (s.skipIf b).pbc = s.pbc := by unfold State.skipIf; split <;> rfl
@[simp] theorem State.skipIf_ram : (s.skipIf b).ram = s.ram := by unfold State.skipIf; split <;> rfl
@[simp] theorem State.skipIf_wf1 : (s.skipIf b).wf1 = s.wf1 := by unfold State.skipIf; split <;> rfl
@[simp] theorem State.skipIf_wf2 : (s.skipIf b).wf2 = s.wf2 := by unfold State.skipIf; split <;> rfl
@[simp] theorem State.skipIf_emi : (s.skipIf b).emi = s.emi := by unfold State.skipIf; split <;> rfl
@[simp] theorem State.skipIf_mode : (s.skipIf b).mode = s.mode := by unfold State.skipIf; split <;> rfl
@[simp] theorem State.skipIf_rom : (s.skipIf b).rom = s.rom := by unfold State.skipIf; split <;> rfl
@[simp] theorem State.skipIf_params : (s.skipIf b).params = s.params := by unfold State.skipIf; split <;> rfl
@[simp] theorem State.skipIf_wsChanged : (s.skipIf b).wsChanged = s.wsChanged := by unfold State.skipIf; split <;> rfl
@[simp] theorem State.skipIf_env : (s.skipIf b).env = s.env := by unfold State.skipIf; split <;> rfl
@[simp] theorem State.skipIf_time : (s.skipIf b).time = s.time := by unfold State.skipIf; split <;> rfl
@[simp] theorem State.skipIf_ramEpoch : (s.skipIf b).ramEpoch = s.ramEpoch := by unfold State.skipIf; split <;> rfl
end skipIfFields

section ramThroughResetFields
variable (s : State)
@[simp] theorem State.ramThroughReset_acc : (s.ramThroughReset).acc = s.acc := by unfold State.ramThroughReset; split <;> rfl
@[simp] theorem State.ramThroughReset_pc : (s.ramThroughReset).pc = s.pc := by unfold State.ramThroughReset; split <;> rfl
@[simp] theorem State.ramThroughReset_stack : (s.ramThroughReset).stack = s.stack := by unfold State.ramThroughReset; split <;> rfl
@[simp] theorem State.ramThroughReset_sp : (s.ramThroughReset).sp = s.sp := by unfold State.ramThroughReset; split <;> rfl
@[simp] theorem State.ramThroughReset_c : (s.ramThroughReset).c = s.c := by unfold State.ramThroughReset; split <;> rfl
@[simp] theorem State.ramThroughReset_ac : (s.ramThroughReset).ac = s.ac := by unfold State.ramThroughReset; split <;> rfl
@[simp] theorem State.ramThroughReset_z : (s.ramThroughReset).z = s.z := by unfold State.ramThroughReset; split <;> rfl
@[simp] theorem State.ramThroughReset_ov : (s.ramThroughReset).ov = s.ov := by unfold State.ramThroughReset; split <;> rfl
@[simp] theorem State.ramThroughReset_pdf : (s.ramThroughReset).pdf = s.pdf := by unfold State.ramThroughReset; split <;> rfl
@[simp] theorem State.ramThroughReset_tout : (s.ramThroughReset).tout = s.tout := by unfold State.ramThroughReset; split <;> rfl
@[simp] theorem State.ramThroughReset_mp : (s.ramThroughReset).mp = s.mp := by unfold State.ramThroughReset; split <;> rfl
@[simp] theorem State.ramThroughReset_tblp : (s.ramThroughReset).tblp = s.tblp := by unfold State.ramThroughReset; split <;> rfl
@[simp] theorem State.ramThroughReset_tblh : (s.ramThroughReset).tblh = s.tblh := by unfold State.ramThroughReset; split <;> rfl
@[simp] theorem State.ramThroughReset_wdts : (s.ramThroughReset).wdts = s.wdts := by unfold State.ramThroughReset; split <;> rfl
@[simp] theorem State.ramThroughReset_pa : (s.ramThroughReset).pa = s.pa := by unfold State.ramThroughReset; split <;> rfl
@[simp] theorem State.ramThroughReset_pac : (s.ramThroughReset).pac = s.pac := by unfold State.ramThroughReset; split <;> rfl
@[simp] theorem State.ramThroughReset_pb : (s.ramThroughReset).pb = s.pb := by unfold State.ramThroughReset; split <;> rfl
@[simp] theorem State.ramThroughReset_pbc : (s.ramThroughReset).pbc = s.pbc := by unfold State.ramThroughReset; split <;> rfl
@[simp] theorem State.ramThroughReset_wdt : (s.ramThroughReset).wdt = s.wdt := by unfold State.ramThroughReset; split <;> rfl
@[simp] theorem State.ramThroughReset_wf1 : (s.ramThroughReset).wf1 = s.wf1 := by unfold State.ramThroughReset; split <;> rfl
@[simp] theorem State.ramThroughReset_wf2 : (s.ramThroughReset).wf2 = s.wf2 := by unfold State.ramThroughReset; split <;> rfl
@[simp] theorem State.ramThroughReset_emi : (s.ramThroughReset).emi = s.emi := by unfold State.ramThroughReset; split <;> rfl
@[simp] theorem State.ramThroughReset_mode : (s.ramThroughReset).mode = s.mode := by unfold State.ramThroughReset; split <;> rfl
@[simp] theorem State.ramThroughReset_rom : (s.ramThroughReset).rom = s.rom := by unfold State.ramThroughReset; split <;> rfl
@[simp] theorem State.ramThroughReset_params : (s.ramThroughReset).params = s.params := by unfold State.ramThroughReset; split <;> rfl
@[simp] theorem State.ramThroughReset_wsChanged : (s.ramThroughReset).wsChanged = s.wsChanged := by unfold State.ramThroughReset; split <;> rfl
@[simp] theorem State.ramThroughReset_env : (s.ramThroughReset).env = s.env := by unfold State.ramThroughReset; split <;> rfl
@[simp] theorem State.ramThroughReset_time : (s.ramThroughReset).time = s.time := by unfold State.ramThroughReset; split <;> rfl
end ramThroughResetFields

section serviceWatchdogFields
variable (s : State)
@[simp] theorem State.serviceWatchdog_acc : (s.serviceWatchdog).acc = s.acc := by unfold State.serviceWatchdog; split <;> rfl
@[simp] theorem State.serviceWatchdog_pc : (s.serviceWatchdog).pc = s.pc := by unfold State.serviceWatchdog; split <;> rfl
@[simp] theorem State.serviceWatchdog_stack : (s.serviceWatchdog).stack = s.stack := by unfold State.serviceWatchdog; split <;> rfl
@[simp] theorem State.serviceWatchdog_sp : (s.serviceWatchdog).sp = s.sp := by unfold State.serviceWatchdog; split <;> rfl
@[simp] theorem State.serviceWatchdog_c : (s.serviceWatchdog).c = s.c := by unfold State.serviceWatchdog; split <;> rfl
@[simp] theorem State.serviceWatchdog_ac : (s.serviceWatchdog).ac = s.ac := by unfold State.serviceWatchdog; split <;> rfl
@[simp] theorem State.serviceWatchdog_z : (s.serviceWatchdog).z = s.z := by unfold State.serviceWatchdog; split <;> rfl
@[simp] theorem State.serviceWatchdog_ov : (s.serviceWatchdog).ov = s.ov := by unfold State.serviceWatchdog; split <;> rfl
@[simp] theorem State.serviceWatchdog_mp : (s.serviceWatchdog).mp = s.mp := by unfold State.serviceWatchdog; split <;> rfl
@[simp] theorem State.serviceWatchdog_tblp : (s.serviceWatchdog).tblp = s.tblp := by unfold State.serviceWatchdog; split <;> rfl
@[simp] theorem State.serviceWatchdog_tblh : (s.serviceWatchdog).tblh = s.tblh := by unfold State.serviceWatchdog; split <;> rfl
@[simp] theorem State.serviceWatchdog_wdts : (s.serviceWatchdog).wdts = s.wdts := by unfold State.serviceWatchdog; split <;> rfl
@[simp] theorem State.serviceWatchdog_pa : (s.serviceWatchdog).pa = s.pa := by unfold State.serviceWatchdog; split <;> rfl
@[simp] theorem State.serviceWatchdog_pac : (s.serviceWatchdog).pac = s.pac := by unfold State.serviceWatchdog; split <;> rfl
@[simp] theorem State.serviceWatchdog_pb : (s.serviceWatchdog).pb = s.pb := by unfold State.serviceWatchdog; split <;> rfl
@[simp] theorem State.serviceWatchdog_pbc : (s.serviceWatchdog).pbc = s.pbc := by unfold State.serviceWatchdog; split <;> rfl
@[simp] theorem State.serviceWatchdog_ram : (s.serviceWatchdog).ram = s.ram := by unfold State.serviceWatchdog; split <;> rfl
@[simp] theorem State.serviceWatchdog_wf1 : (s.serviceWatchdog).wf1 = s.wf1 := by unfold State.serviceWatchdog; split <;> rfl
@[simp] theorem State.serviceWatchdog_wf2 : (s.serviceWatchdog).wf2 = s.wf2 := by unfold State.serviceWatchdog; split <;> rfl
@[simp] theorem State.serviceWatchdog_emi : (s.serviceWatchdog).emi = s.emi := by unfold State.serviceWatchdog; split <;> rfl
@[simp] theorem State.serviceWatchdog_mode : (s.serviceWatchdog).mode = s.mode := by unfold State.serviceWatchdog; split <;> rfl
@[simp] theorem State.serviceWatchdog_rom : (s.serviceWatchdog).rom = s.rom := by unfold State.serviceWatchdog; split <;> rfl
@[simp] theorem State.serviceWatchdog_params : (s.serviceWatchdog).params = s.params := by unfold State.serviceWatchdog; split <;> rfl
@[simp] theorem State.serviceWatchdog_env : (s.serviceWatchdog).env = s.env := by unfold State.serviceWatchdog; split <;> rfl
@[simp] theorem State.serviceWatchdog_time : (s.serviceWatchdog).time = s.time := by unfold State.serviceWatchdog; split <;> rfl
@[simp] theorem State.serviceWatchdog_ramEpoch : (s.serviceWatchdog).ramEpoch = s.ramEpoch := by unfold State.serviceWatchdog; split <;> rfl
@[simp] theorem State.serviceWatchdog_pdf : (s.serviceWatchdog).pdf = false := by unfold State.serviceWatchdog; split <;> rfl
@[simp] theorem State.serviceWatchdog_tout : (s.serviceWatchdog).tout = false := by unfold State.serviceWatchdog; split <;> rfl
end serviceWatchdogFields

end Sys2Proof.Machine
end

