-- ==== Sys2Proof/Laws/Ops.lean ====
section
/-!
SUPPORT. What each shared operation can do, said once, for proofs to cite instead of unfolding it.
-/
namespace Sys2Proof.Machine

/-! ## Answers -/

@[simp] theorem andThen_next (s : State) (f : State → Result) : andThen (.next s) f = f s := rfl
@[simp] theorem andThen_fault (e : Fault) (f : State → Result) : andThen (.fault e) f = .fault e := rfl
@[simp] theorem andThen_refused (e : Refusal) (f : State → Result) :
    andThen (.refused e) f = .refused e := rfl
@[simp] theorem onNext_next (s : State) (f : State → State) : onNext (.next s) f = .next (f s) := rfl
@[simp] theorem onNext_fault (e : Fault) (f : State → State) : onNext (.fault e) f = .fault e := rfl
@[simp] theorem onNext_refused (e : Refusal) (f : State → State) :
    onNext (.refused e) f = .refused e := rfl

/-- A changed answer is a next state exactly when the answer was. -/
theorem onNext_eq_next {r : Result} {f : State → State} {t : State} :
    onNext r f = .next t ↔ ∃ u, r = .next u ∧ f u = t := by
  cases r <;> simp

/-! ## Memory -/

/-- A read gives the last value written at its address, else what was there. -/
theorem Memory.read_write {α : Type} (mem : List (Nat × α)) (k : Nat) (v : α) (a : Nat) :
    Memory.read (Memory.write mem k v) a = if a = k then some v else Memory.read mem a := by
  induction mem with
  | nil => simp [Memory.write, Memory.read, eq_comm]
  | cons cell rest ih =>
    obtain ⟨b, w⟩ := cell
    simp only [Memory.write]
    split
    · simp only [Memory.read, eq_comm]
    · split
      · rename_i hk; subst hk; simp only [Memory.read]; grind
      · simp only [Memory.read, ih]; grind

/-- The cells after a write: the one written, and cells that were there. -/
theorem Memory.mem_write {α : Type} {mem : List (Nat × α)} {k : Nat} {v : α} {cell : Nat × α}
    (h : cell ∈ Memory.write mem k v) : cell = (k, v) ∨ cell ∈ mem := by
  induction mem with
  | nil => simpa [Memory.write] using h
  | cons first rest ih =>
    simp only [Memory.write] at h
    grind

/-- A write keeps the canonical form. -/
theorem Memory.wf_write {α : Type} {mem : List (Nat × α)} (h : Memory.wf mem) (k : Nat) (v : α) :
    Memory.wf (Memory.write mem k v) := by
  induction mem with
  | nil => simp [Memory.write, Memory.wf]
  | cons first rest ih =>
    obtain ⟨b, w⟩ := first
    simp only [Memory.wf, List.map_cons, List.pairwise_cons] at h ih ⊢
    simp only [Memory.write]
    split
    · simp only [List.map_cons, List.pairwise_cons]; grind
    · split
      · simp only [List.map_cons, List.pairwise_cons]; grind
      · simp only [List.map_cons, List.pairwise_cons]
        refine ⟨fun a ha => ?_, ih h.2⟩
        obtain ⟨cell, hc, rfl⟩ := List.mem_map.mp ha
        rcases Memory.mem_write hc with rfl | hc
        · simp only; omega
        · exact h.1 _ (List.mem_map_of_mem hc)

/-- Reset's memories are in canonical form. -/
theorem State.reset_memories_wf : Memory.wf State.reset.ram ∧ Memory.wf State.reset.rom := by
  decide

/-! ## The watchdog's clock -/

theorem State.countCycles_wdt (n : Nat) (s : State) : (s.countCycles n).wdt = s.clocked n := by
  unfold State.countCycles State.clocked
  cases s.params.options.wdtEnable <;> cases h : s.params.options.wdtClk <;> simp

@[simp] theorem State.startInstr_wdt_clocked (n : Nat) (s : State) :
    (State.countCycles n s).wdt = s.clocked n := State.countCycles_wdt n s

/-! ## Locations -/

@[simp] theorem State.resolve_startInstr (m : DataAddr) (n : Nat) (s : State) :
    (s.startInstr n).resolve m = s.resolve m := rfl

@[simp] theorem State.input_startInstr (n : Nat) (s : State) : (s.startInstr n).input = s.input := rfl

@[simp] theorem State.drawIndex_startInstr (n : Nat) (s : State) :
    (s.startInstr n).drawIndex = s.drawIndex := rfl

/-- A choice answers one of its branches. -/
theorem eq_of_ite {α : Type} {c : Prop} {x y z : α} [Decidable c] (h : (if c then x else y) = z) :
    (c ∧ x = z) ∨ (¬c ∧ y = z) := by
  by_cases hc : c
  · exact .inl ⟨hc, by rwa [if_pos hc] at h⟩
  · exact .inr ⟨hc, by rwa [if_neg hc] at h⟩

/-- A location in RAM is one of the 32 addresses (R71). -/
theorem Loc.direct_gpr {p : Params} {a : DataAddr} {k : Nat} (h : Loc.direct p a = .gpr k) :
    k = a.toNat ∧ gprBase p ≤ k ∧ k < gprBase p + 32 := by
  unfold Loc.direct at h
  iterate 12
    rcases eq_of_ite h with ⟨-, hl⟩ | ⟨-, hl⟩
    · cases hl
    clear h
    rename _ = _ => h
  rcases eq_of_ite h with ⟨hr, h⟩ | ⟨-, h⟩
  · cases h; exact ⟨rfl, hr⟩
  · cases h

/-- An operand in RAM is at one of the 32 addresses (R71). -/
theorem State.resolve_gpr {s : State} {m : DataAddr} {k : Nat} (h : s.resolve m = .gpr k) :
    gprBase s.params ≤ k ∧ k < gprBase s.params + 32 := by
  unfold State.resolve at h
  split at h <;> exact (Loc.direct_gpr h).2

/-- A location reads as nothing exactly when nothing is implemented there (R72). -/
theorem State.readLoc_eq_none {l : Loc} {s : State} : s.readLoc l = none ↔ ∃ a, l = .absent a := by
  cases l <;> simp [State.readLoc]

/-- At the start of an instruction's effect `npc` has low byte 00H exactly when the instruction stands at
low byte FFH. -/
theorem State.atPageEnd_startInstr (n : Nat) (s : State) :
    (s.startInstr n).atPageEnd = s.standsAtPageEnd := by
  have key : (BitVec.setWidth 8 (s.pc + 1#10) = 0#8) ↔ (BitVec.setWidth 8 s.pc = 255#8) := by
    constructor <;> intro h <;> bv_omega
  simp only [State.atPageEnd, State.standsAtPageEnd, State.startInstr_pc]
  rw [Bool.eq_iff_iff]
  simpa using key

/-- Everything a write can do when it answers a next state (R61). -/
theorem State.writeLoc_next {l : Loc} {v : Byte} {s t : State} (h : s.writeLoc l v = .next t) :
    (l = .null ∧ t = s) ∨ (l = .mp ∧ t = { s with mp := v.setWidth 7 }) ∨
    (l = .acc ∧ t = s.setAcc v) ∨ (l = .pcl ∧ s.atPageEnd = false ∧ t = s.loadPcl v) ∨
    (l = .tblp ∧ t = { s with tblp := v }) ∨ (l = .wdts ∧ t = s.writeWdts v) ∨
    (l = .status ∧ t = s.writeStatus v) ∨ (l = .portA ∧ t = { s with pa := v }) ∨
    (l = .portAControl ∧ t = { s with pac := v }) ∨ (l = .portB ∧ t = { s with pb := v.setWidth 3 }) ∨
    (l = .portBControl ∧ t = { s with pbc := v.setWidth 3 }) ∨
    (∃ a, l = .gpr a ∧ t = s.ramWrite a v) := by
  cases l <;> simp only [State.writeLoc] at h <;> first
    | (cases h; done)
    | (split at h <;> cases h; simp_all)
    | (cases h; simp)

/-- A location that can be written takes any byte (R61). -/
theorem State.writeLoc_of_writable {m : DataAddr} {s : State} (h : s.writable m = true) (n : Nat)
    (v : Byte) : ∃ t, (s.startInstr n).writeLoc (s.resolve m) v = .next t := by
  unfold State.writable at h
  cases hl : s.resolve m <;> simp_all [State.writeLoc, State.atPageEnd_startInstr]

/-! ## The shapes of instructions -/

/-- An operand that answers a next state was read (R76). -/
theorem withOperand_next {m : DataAddr} {s t : State} {k : Loc → Byte → Result}
    (h : withOperand m s k = .next t) :
    ∃ v, s.readLoc (s.resolve m) = some v ∧ k (s.resolve m) v = .next t := by
  unfold withOperand at h
  split at h
  · exact ⟨_, ‹_›, h⟩
  · cases h

/-- An operand that is there is read. -/
theorem withOperand_of_some {m : DataAddr} {s : State} {v : Byte} (k : Loc → Byte → Result)
    (h : s.readLoc (s.resolve m) = some v) : withOperand m s k = k (s.resolve m) v := by
  simp [withOperand, h]

/-- An operand that is not there is refused (R72). -/
theorem withOperand_of_absent {m a : DataAddr} {s : State} (k : Loc → Byte → Result)
    (h : s.resolve m = .absent a) : withOperand m s k = .refused (.unimplementedAddress a) := by
  simp [withOperand, h, State.readLoc, Loc.addr]

/-- What putting a result at a location does. -/
theorem State.putLoc_next {l : Loc} {o : AluOut} {s t : State} (h : s.putLoc l o = .next t) :
    ∃ u, s.writeLoc l o.value = .next u ∧
      t = u.applyFlags (if l = .status then o.flags.raced s.drawIndex else o.flags) := by
  obtain ⟨u, h1, h2⟩ := onNext_eq_next.mp h
  exact ⟨u, h1, h2.symm⟩

/-- What an instruction with destination ACC does. -/
theorem operandToAcc_next {f : State → Byte → AluOut} {m : DataAddr} {s t : State}
    (h : operandToAcc f m s = .next t) :
    ∃ v, s.operandByte m = some v ∧ t = (s.startInstr 1).putAcc (f (s.startInstr 1) v) := by
  simp only [operandToAcc] at h
  obtain ⟨v, hv, h⟩ := withOperand_next h
  cases h
  exact ⟨v, hv, rfl⟩

/-- What an instruction that writes its operand back does. -/
theorem operandToMem_next {f : State → Byte → AluOut} {m : DataAddr} {s t : State}
    (h : operandToMem f m s = .next t) :
    ∃ v, s.operandByte m = some v ∧
      (s.startInstr 1).putLoc (s.resolve m) (f (s.startInstr 1) v) = .next t := by
  simp only [operandToMem] at h
  exact withOperand_next h

/-- What a skip that writes nothing does. -/
theorem skipOnOperand_next {p : Byte → Bool} {m : DataAddr} {s t : State}
    (h : skipOnOperand p m s = .next t) :
    ∃ v, s.operandByte m = some v ∧ t = (s.startInstr 1).skipIf (p v) := by
  simp only [skipOnOperand] at h
  obtain ⟨v, hv, h⟩ := withOperand_next h
  cases h
  exact ⟨v, hv, rfl⟩

/-- What a skip with destination ACC does. -/
theorem skipToAcc_next {f : Byte → Byte} {m : DataAddr} {s t : State}
    (h : skipToAcc f m s = .next t) :
    ∃ v, s.operandByte m = some v ∧ t = ((s.startInstr 1).setAcc (f v)).skipIf (f v == 0#8) := by
  simp only [skipToAcc] at h
  obtain ⟨v, hv, h⟩ := withOperand_next h
  cases h
  exact ⟨v, hv, rfl⟩

/-- What a skip with destination `[m]` does. -/
theorem skipToMem_next {f : Byte → Byte} {m : DataAddr} {s t : State}
    (h : skipToMem f m s = .next t) :
    ∃ v u, s.operandByte m = some v ∧ s.resolve m ≠ .pcl ∧
      (s.startInstr 1).writeLoc (s.resolve m) (f v) = .next u ∧ t = u.skipIf (f v == 0#8) := by
  simp only [skipToMem] at h
  obtain ⟨v, hv, h⟩ := withOperand_next h
  split at h
  · cases h
  · obtain ⟨u, hu, rfl⟩ := onNext_eq_next.mp h
    exact ⟨v, u, hv, ‹_›, hu, rfl⟩

/-- What a table read does (R230). -/
theorem tableRead_next {ta : ProgAddr} {m : DataAddr} {s t : State}
    (h : tableRead ta m s = .next t) :
    ∃ u, s.writeLoc (s.resolve m) ((s.progRead ta).setWidth 8) = .next u ∧
      t = { u with tblh := (s.progRead ta).extractLsb' 8 6 } := by
  obtain ⟨u, h1, h2⟩ := onNext_eq_next.mp h
  exact ⟨u, h1, h2.symm⟩

/-! ## Resets -/

/-- A reset of the powered chip keeps the RAM or loses it, and touches nothing else by that (D18). -/
theorem State.ramThroughReset_cases (s : State) :
    (s.params.ramSurvivesReset = true ∧ s.ramThroughReset = s) ∨
    (s.params.ramSurvivesReset = false ∧
      s.ramThroughReset = { s with ram := [], ramEpoch := s.ramEpoch + 1 }) := by
  unfold State.ramThroughReset
  cases h : s.params.ramSurvivesReset <;> simp [State.loseRam]

/-! ## Decoding -/

/-- A word decodes only to a term that stands beside it in the encoding. -/
theorem mem_of_decode {enc : Encoding} {w : Word14} {i : Instr} (h : decode enc w = some i) :
    (w, i) ∈ enc := by
  unfold decode at h
  induction enc with
  | nil => simp at h
  | cons row rest ih =>
    obtain ⟨w', i'⟩ := row
    simp only [List.lookup_cons] at h
    split at h
    · simp_all
    · exact List.mem_cons_of_mem _ (ih h)

/-! ## A step -/

/-- Everything a step can do. -/
theorem step_next {s t : State} (h : step s = .next t) :
    (∃ e u, s.dueEvent = some e ∧ takeEvent e s.atBoundary = .next u ∧ t = u.passTime) ∨
    (s.dueEvent = none ∧ s.mode = .halt ∧ t = s.atBoundary.passTime) ∨
    (∃ i u, s.dueEvent = none ∧ s.mode = .run ∧ s.fetch = some i ∧ exec i s.atBoundary = .next u ∧
      t = u.passTime) := by
  unfold step at h
  obtain ⟨u, hu, rfl⟩ := onNext_eq_next.mp h
  have hd : s.dueEvent = (s.countOscTicks s.input.oscTicks).pendingEvent s.input := rfl
  cases hp : (s.countOscTicks s.input.oscTicks).pendingEvent s.input with
  | some e =>
    simp only [hp] at hu
    exact .inl ⟨e, u, hd.trans hp, hu, rfl⟩
  | none =>
    simp only [hp, coreStep] at hu
    cases hm : s.mode with
    | halt =>
      simp only [State.countOscTicks_mode, hm] at hu
      cases hu
      exact .inr (.inl ⟨hd.trans hp, rfl, rfl⟩)
    | run =>
      simp only [State.countOscTicks_mode, hm] at hu
      cases hf : (s.countOscTicks s.input.oscTicks).fetch with
      | none => simp [hf] at hu
      | some i =>
        simp only [hf] at hu
        exact .inr (.inr ⟨i, u, hd.trans hp, rfl, hf, hu, rfl⟩)

end Sys2Proof.Machine
end

