-- ==== Sys2Proof/Laws/PerInstr.lean ====
section
/-!
SUPPORT. A statement made of every instruction: its sample word (Sys2Proof/SampleEncoding.lean, not the
chip's) is read back as the instruction, with every operand.
-/
namespace Sys2Proof.Laws

/-- The sample word of an instruction spells it. -/
def SampleRoundTrip.Statement (i : Instr) : Prop :=
  sampleTerm (sampleWord i) = some i

theorem SampleRoundTrip.nop : SampleRoundTrip.Statement .nop :=
  sampleTerm_sampleWord _

theorem SampleRoundTrip.clrWdt : SampleRoundTrip.Statement .clrWdt :=
  sampleTerm_sampleWord _

theorem SampleRoundTrip.clrWdt1 : SampleRoundTrip.Statement .clrWdt1 :=
  sampleTerm_sampleWord _

theorem SampleRoundTrip.clrWdt2 : SampleRoundTrip.Statement .clrWdt2 :=
  sampleTerm_sampleWord _

theorem SampleRoundTrip.halt : SampleRoundTrip.Statement .halt :=
  sampleTerm_sampleWord _

theorem SampleRoundTrip.ret : SampleRoundTrip.Statement .ret :=
  sampleTerm_sampleWord _

theorem SampleRoundTrip.reti : SampleRoundTrip.Statement .reti :=
  sampleTerm_sampleWord _

theorem SampleRoundTrip.addA (m : DataAddr) : SampleRoundTrip.Statement (.addA m) :=
  sampleTerm_sampleWord _

theorem SampleRoundTrip.addM (m : DataAddr) : SampleRoundTrip.Statement (.addM m) :=
  sampleTerm_sampleWord _

theorem SampleRoundTrip.adcA (m : DataAddr) : SampleRoundTrip.Statement (.adcA m) :=
  sampleTerm_sampleWord _

theorem SampleRoundTrip.adcM (m : DataAddr) : SampleRoundTrip.Statement (.adcM m) :=
  sampleTerm_sampleWord _

theorem SampleRoundTrip.subA (m : DataAddr) : SampleRoundTrip.Statement (.subA m) :=
  sampleTerm_sampleWord _

theorem SampleRoundTrip.subM (m : DataAddr) : SampleRoundTrip.Statement (.subM m) :=
  sampleTerm_sampleWord _

theorem SampleRoundTrip.sbcA (m : DataAddr) : SampleRoundTrip.Statement (.sbcA m) :=
  sampleTerm_sampleWord _

theorem SampleRoundTrip.sbcM (m : DataAddr) : SampleRoundTrip.Statement (.sbcM m) :=
  sampleTerm_sampleWord _

theorem SampleRoundTrip.daa (m : DataAddr) : SampleRoundTrip.Statement (.daa m) :=
  sampleTerm_sampleWord _

theorem SampleRoundTrip.andA (m : DataAddr) : SampleRoundTrip.Statement (.andA m) :=
  sampleTerm_sampleWord _

theorem SampleRoundTrip.orA (m : DataAddr) : SampleRoundTrip.Statement (.orA m) :=
  sampleTerm_sampleWord _

theorem SampleRoundTrip.xorA (m : DataAddr) : SampleRoundTrip.Statement (.xorA m) :=
  sampleTerm_sampleWord _

theorem SampleRoundTrip.andM (m : DataAddr) : SampleRoundTrip.Statement (.andM m) :=
  sampleTerm_sampleWord _

theorem SampleRoundTrip.orM (m : DataAddr) : SampleRoundTrip.Statement (.orM m) :=
  sampleTerm_sampleWord _

theorem SampleRoundTrip.xorM (m : DataAddr) : SampleRoundTrip.Statement (.xorM m) :=
  sampleTerm_sampleWord _

theorem SampleRoundTrip.cpl (m : DataAddr) : SampleRoundTrip.Statement (.cpl m) :=
  sampleTerm_sampleWord _

theorem SampleRoundTrip.cpla (m : DataAddr) : SampleRoundTrip.Statement (.cpla m) :=
  sampleTerm_sampleWord _

theorem SampleRoundTrip.inca (m : DataAddr) : SampleRoundTrip.Statement (.inca m) :=
  sampleTerm_sampleWord _

theorem SampleRoundTrip.inc (m : DataAddr) : SampleRoundTrip.Statement (.inc m) :=
  sampleTerm_sampleWord _

theorem SampleRoundTrip.deca (m : DataAddr) : SampleRoundTrip.Statement (.deca m) :=
  sampleTerm_sampleWord _

theorem SampleRoundTrip.dec (m : DataAddr) : SampleRoundTrip.Statement (.dec m) :=
  sampleTerm_sampleWord _

theorem SampleRoundTrip.rra (m : DataAddr) : SampleRoundTrip.Statement (.rra m) :=
  sampleTerm_sampleWord _

theorem SampleRoundTrip.rr (m : DataAddr) : SampleRoundTrip.Statement (.rr m) :=
  sampleTerm_sampleWord _

theorem SampleRoundTrip.rrca (m : DataAddr) : SampleRoundTrip.Statement (.rrca m) :=
  sampleTerm_sampleWord _

theorem SampleRoundTrip.rrc (m : DataAddr) : SampleRoundTrip.Statement (.rrc m) :=
  sampleTerm_sampleWord _

theorem SampleRoundTrip.rla (m : DataAddr) : SampleRoundTrip.Statement (.rla m) :=
  sampleTerm_sampleWord _

theorem SampleRoundTrip.rl (m : DataAddr) : SampleRoundTrip.Statement (.rl m) :=
  sampleTerm_sampleWord _

theorem SampleRoundTrip.rlca (m : DataAddr) : SampleRoundTrip.Statement (.rlca m) :=
  sampleTerm_sampleWord _

theorem SampleRoundTrip.rlc (m : DataAddr) : SampleRoundTrip.Statement (.rlc m) :=
  sampleTerm_sampleWord _

theorem SampleRoundTrip.movA (m : DataAddr) : SampleRoundTrip.Statement (.movA m) :=
  sampleTerm_sampleWord _

theorem SampleRoundTrip.movM (m : DataAddr) : SampleRoundTrip.Statement (.movM m) :=
  sampleTerm_sampleWord _

theorem SampleRoundTrip.sz (m : DataAddr) : SampleRoundTrip.Statement (.sz m) :=
  sampleTerm_sampleWord _

theorem SampleRoundTrip.sza (m : DataAddr) : SampleRoundTrip.Statement (.sza m) :=
  sampleTerm_sampleWord _

theorem SampleRoundTrip.siz (m : DataAddr) : SampleRoundTrip.Statement (.siz m) :=
  sampleTerm_sampleWord _

theorem SampleRoundTrip.sdz (m : DataAddr) : SampleRoundTrip.Statement (.sdz m) :=
  sampleTerm_sampleWord _

theorem SampleRoundTrip.siza (m : DataAddr) : SampleRoundTrip.Statement (.siza m) :=
  sampleTerm_sampleWord _

theorem SampleRoundTrip.sdza (m : DataAddr) : SampleRoundTrip.Statement (.sdza m) :=
  sampleTerm_sampleWord _

theorem SampleRoundTrip.tabrdc (m : DataAddr) : SampleRoundTrip.Statement (.tabrdc m) :=
  sampleTerm_sampleWord _

theorem SampleRoundTrip.tabrdl (m : DataAddr) : SampleRoundTrip.Statement (.tabrdl m) :=
  sampleTerm_sampleWord _

theorem SampleRoundTrip.clr (m : DataAddr) : SampleRoundTrip.Statement (.clr m) :=
  sampleTerm_sampleWord _

theorem SampleRoundTrip.set (m : DataAddr) : SampleRoundTrip.Statement (.set m) :=
  sampleTerm_sampleWord _

theorem SampleRoundTrip.swap (m : DataAddr) : SampleRoundTrip.Statement (.swap m) :=
  sampleTerm_sampleWord _

theorem SampleRoundTrip.swapa (m : DataAddr) : SampleRoundTrip.Statement (.swapa m) :=
  sampleTerm_sampleWord _

theorem SampleRoundTrip.addI (x : Byte) : SampleRoundTrip.Statement (.addI x) :=
  sampleTerm_sampleWord _

theorem SampleRoundTrip.subI (x : Byte) : SampleRoundTrip.Statement (.subI x) :=
  sampleTerm_sampleWord _

theorem SampleRoundTrip.andI (x : Byte) : SampleRoundTrip.Statement (.andI x) :=
  sampleTerm_sampleWord _

theorem SampleRoundTrip.orI (x : Byte) : SampleRoundTrip.Statement (.orI x) :=
  sampleTerm_sampleWord _

theorem SampleRoundTrip.xorI (x : Byte) : SampleRoundTrip.Statement (.xorI x) :=
  sampleTerm_sampleWord _

theorem SampleRoundTrip.movI (x : Byte) : SampleRoundTrip.Statement (.movI x) :=
  sampleTerm_sampleWord _

theorem SampleRoundTrip.retA (x : Byte) : SampleRoundTrip.Statement (.retA x) :=
  sampleTerm_sampleWord _

theorem SampleRoundTrip.clrBit (m : DataAddr) (i : BitIndex) : SampleRoundTrip.Statement (.clrBit m i) :=
  sampleTerm_sampleWord _

theorem SampleRoundTrip.setBit (m : DataAddr) (i : BitIndex) : SampleRoundTrip.Statement (.setBit m i) :=
  sampleTerm_sampleWord _

theorem SampleRoundTrip.szBit (m : DataAddr) (i : BitIndex) : SampleRoundTrip.Statement (.szBit m i) :=
  sampleTerm_sampleWord _

theorem SampleRoundTrip.snzBit (m : DataAddr) (i : BitIndex) : SampleRoundTrip.Statement (.snzBit m i) :=
  sampleTerm_sampleWord _

theorem SampleRoundTrip.jmp (addr : ProgAddr) : SampleRoundTrip.Statement (.jmp addr) :=
  sampleTerm_sampleWord _

theorem SampleRoundTrip.call (addr : ProgAddr) : SampleRoundTrip.Statement (.call addr) :=
  sampleTerm_sampleWord _

end Sys2Proof.Laws
end

