-- ==== Sys2Proof/Tests/Slice0.lean ====
section
/-!
SUPPORT. Tests. Expected results are the vectors of spec/95_test_vectors.md (cited as V and its section) or
computed by hand from the rule named. Then a witness for every statement that has hypotheses.
-/
open Sys2Proof Sys2Proof.Machine

namespace Sys2Proof.Tests

/-! ## A small state -/

/-- Options: watchdog enabled on f_SYS/4, one clear instruction, LVR enabled, wake-up on PA0 and PA3. -/
def options : Options where
  wdtClk := .fsysDiv4
  wdtEnable := true
  lvrEnable := true
  clrWdtTimes := .one
  osc := .rc
  pullHigh := false
  paWake := 0b00001001#8

/-- RAM at 20H. Two words spell NOP and HALT in this test's own numbering (log 1). -/
def params : Params where
  encoding := [(0x0001#14, .nop), (0x0002#14, .halt)]
  options := options
  gprOffset := 10
  wdtDisClrFlags := false
  ramSurvivesReset := true

/-- Pads PA7..PA0 = 1001 0001, PB2..PB0 = 101, all driven, no event. -/
def input : Input where
  padA := 0b10010001#8
  padB := 0b101#3
  drivenA := 0xFF#8
  drivenB := 0b111#3
  powerOn := false
  resLow := false
  lowVoltage := false
  fallA := 0#8
  oscTicks := 0
  wdtFire := false
  wakeFirst := false

/-- A state at 120H with ACC = a, RAM[20H] = v, carry flag k, the other flags clear and MP = 21H. -/
def at20 (a v : Byte) (k : Bool := false) : State :=
  { State.reset with
      acc := a, c := k, ac := false, z := false, ov := false, pc := 0x120#10, stack := 0x011#10
      mp := 0x21#7, tblp := 0x40#8, tblh := 0x2A#6, wf1 := false, wf2 := false, emi := false
      ram := [(0x20, v)], rom := [(0x120, 0x0001#14), (0x121, 0x3000#14), (0x140, 0x2A5C#14),
        (0x340, 0x0123#14)]
      params := params, env := [input] }

/-- What holds of the next state, if there is one. -/
def seen {α : Type} (r : Result) (f : State → α) : Option α :=
  match r with
  | .next t => some (f t)
  | .fault _ => none
  | .refused _ => none

/-- The flags C, AC, OV, Z, in the order of the vectors. -/
def flags (t : State) : Bool × Bool × Bool × Bool :=
  (t.c, t.ac, t.ov, t.z)

/-- The byte at 20H. -/
def at20H (t : State) : Byte :=
  t.ramRead 0x20

/-! ## Encodings (30_encoding.md R91, R94) -/

/-- Bits 9..0 are not the target. -/
theorem test_address_out_of_place_refused : Encoding.wf [(0x0001#14, .jmp 0x2A5#10)] = false := by
  decide

theorem test_call_address_out_of_place_refused : Encoding.wf [(0x0001#14, .call 0x2A5#10)] = false := by
  decide

/-- Two words, one term. -/
theorem test_two_words_of_one_term_refused :
    Encoding.wf [(0x0001#14, .nop), (0x0002#14, .nop)] = false := by decide

/-- Two terms, one word. -/
theorem test_two_terms_of_one_word_refused :
    Encoding.wf [(0x0001#14, .nop), (0x0001#14, .ret)] = false := by decide

theorem test_small_encoding_wf : params.encoding.wf = true := by decide

/-- R91: format A, opcode bits 13..10, target bits 9..0, written out bit by bit: JMP 2A5H. -/
theorem test_jmp_word : decode [(0b0110_1010100101#14, .jmp 0b1010100101#10)] 0b0110_1010100101#14 =
    some (.jmp 0x2A5#10) := by decide

theorem test_other_word_refused :
    decode [(0b0110_1010100101#14, .jmp 0b1010100101#10)] 0b0111_1010100101#14 = none := by decide

theorem test_encode_jmp : encode [(0b0110_1010100101#14, .jmp 0b1010100101#10)] (.jmp 0x2A5#10) =
    some 0x1AA5#14 := by decide

/-! The fields of every format, in words of the sample numbering (Sys2Proof/SampleEncoding.lean), written out
bit by bit: opcode, then operands. -/

theorem test_format_a : sampleTerm 0b0000_1010100101#14 = some (.jmp 0x2A5#10) := by decide
theorem test_format_b : sampleTerm 0b0010_110_0010010#14 = some (.clrBit 0x12#7 6#3) := by decide
theorem test_format_i : sampleTerm 0b011000_10100101#14 = some (.addI 0xA5#8) := by decide
theorem test_format_m : sampleTerm 0b1000000_0100001#14 = some (.addA 0x21#7) := by decide
theorem test_format_n : sampleTerm 0b11110000000100#14 = some .halt := by decide
theorem test_no_term : sampleTerm 0b11111111111111#14 = none := by decide

/-! ## Arithmetic (V 2.1 to 2.3) -/

theorem test_addA_overflow :
    seen (exec (.addA 0x20#7) (at20 0x7F#8 0x01#8 false)) (fun t => (t.acc, flags t)) =
      some (0x80#8, (false, true, true, false)) := by decide

theorem test_addA_zero :
    seen (exec (.addA 0x20#7) (at20 0x80#8 0x80#8 false)) (fun t => (t.acc, flags t)) =
      some (0x00#8, (true, false, true, true)) := by decide

theorem test_addM_wrap :
    seen (exec (.addM 0x20#7) (at20 0xFF#8 0x01#8 false)) (fun t => (at20H t, flags t)) =
      some (0x00#8, (true, true, false, true)) := by decide

theorem test_addI_carry :
    seen (exec (.addI 0x20#8) (at20 0xF0#8 0x20#8 false)) (fun t => (t.acc, flags t)) =
      some (0x10#8, (true, false, false, false)) := by decide

theorem test_adcA_carry_in :
    seen (exec (.adcA 0x20#7) (at20 0x12#8 0x34#8 true)) (fun t => (t.acc, flags t)) =
      some (0x47#8, (false, false, false, false)) := by decide

theorem test_adcA_half :
    seen (exec (.adcA 0x20#7) (at20 0x0F#8 0x00#8 true)) (fun t => (t.acc, flags t)) =
      some (0x10#8, (false, true, false, false)) := by decide

theorem test_adcM_all_ones :
    seen (exec (.adcM 0x20#7) (at20 0xFF#8 0xFF#8 true)) (fun t => (at20H t, flags t)) =
      some (0xFF#8, (true, true, false, false)) := by decide

theorem test_subA_overflow :
    seen (exec (.subA 0x20#7) (at20 0x80#8 0x01#8 false)) (fun t => (t.acc, flags t)) =
      some (0x7F#8, (true, false, true, false)) := by decide

theorem test_subI_borrow :
    seen (exec (.subI 0x05#8) (at20 0x03#8 0x05#8 false)) (fun t => (t.acc, flags t)) =
      some (0xFE#8, (false, false, false, false)) := by decide

/-- ACC minus `[m]`, not the other way. -/
theorem test_subM_order :
    seen (exec (.subM 0x20#7) (at20 0x10#8 0x01#8 false)) (fun t => (at20H t, flags t)) =
      some (0x0F#8, (true, false, false, false)) := by decide

theorem test_sbcA_borrow_in :
    seen (exec (.sbcA 0x20#7) (at20 0x05#8 0x03#8 false)) (fun t => (t.acc, flags t)) =
      some (0x01#8, (true, true, false, false)) := by decide

theorem test_sbcA_zero_with_borrow :
    seen (exec (.sbcA 0x20#7) (at20 0x00#8 0xFF#8 false)) (fun t => (t.acc, flags t)) =
      some (0x00#8, (false, false, false, true)) := by decide

theorem test_sbcM_zero :
    seen (exec (.sbcM 0x20#7) (at20 0x10#8 0x0F#8 false)) (fun t => (at20H t, flags t)) =
      some (0x00#8, (true, false, false, true)) := by decide

theorem test_daa_hundred :
    seen (exec (.daa 0x20#7) (at20 0x9A#8 0x55#8)) (fun t => (at20H t, t.c, t.acc)) =
      some (0x00#8, true, 0x9A#8) := by decide

theorem test_daa_half_carry :
    seen (exec (.daa 0x20#7) { at20 0x32#8 0x55#8 true with ac := true }) (fun t => (at20H t, t.c, t.ac)) =
      some (0x98#8, true, true) := by decide

/-- The corner of 90_conflicts.md C5: either result, no other. -/
theorem test_daa_corner : (daa8 0x0F#8 false true false).value = 0x05#8 ∧
    (daa8 0x0F#8 false true true).value = 0x15#8 := by decide

/-! ## Logic, increment, decrement (V 2.4, 2.5): C, AC and OV stay -/

theorem test_andA :
    seen (exec (.andA 0x20#7) { at20 0xF0#8 0x3C#8 true with ov := true }) (fun t => (t.acc, flags t)) =
      some (0x30#8, true, false, true, false) := by decide

theorem test_orA :
    seen (exec (.orA 0x20#7) { at20 0xF0#8 0x3C#8 true with ov := true }) (fun t => (t.acc, flags t)) =
      some (0xFC#8, true, false, true, false) := by decide

theorem test_xorA_zero :
    seen (exec (.xorA 0x20#7) { at20 0xFF#8 0xFF#8 true with ov := true }) (fun t => (t.acc, flags t)) =
      some (0x00#8, true, false, true, true) := by decide

theorem test_andM_zero :
    seen (exec (.andM 0x20#7) { at20 0x55#8 0xAA#8 true with ov := true }) (fun t => (at20H t, flags t)) =
      some (0x00#8, true, false, true, true) := by decide

theorem test_orM :
    seen (exec (.orM 0x20#7) { at20 0x55#8 0xAA#8 true with ov := true }) (fun t => (at20H t, flags t)) =
      some (0xFF#8, true, false, true, false) := by decide

theorem test_xorM :
    seen (exec (.xorM 0x20#7) { at20 0xF0#8 0x3C#8 true with ov := true }) (fun t => (at20H t, flags t)) =
      some (0xCC#8, true, false, true, false) := by decide

theorem test_andI :
    seen (exec (.andI 0xAA#8) { at20 0x55#8 0xAA#8 true with ov := true }) (fun t => (t.acc, flags t)) =
      some (0x00#8, true, false, true, true) := by decide

theorem test_orI :
    seen (exec (.orI 0x3C#8) { at20 0xF0#8 0x3C#8 true with ov := true }) (fun t => (t.acc, flags t)) =
      some (0xFC#8, true, false, true, false) := by decide

theorem test_xorI :
    seen (exec (.xorI 0x3C#8) { at20 0xF0#8 0x3C#8 true with ov := true }) (fun t => (t.acc, flags t)) =
      some (0xCC#8, true, false, true, false) := by decide

theorem test_cpl :
    seen (exec (.cpl 0x20#7) { at20 0x00#8 0xA5#8 true with ov := true }) (fun t => (at20H t, flags t)) =
      some (0x5A#8, true, false, true, false) := by decide

theorem test_cpla_zero :
    seen (exec (.cpla 0x20#7) { at20 0x00#8 0xFF#8 true with ov := true }) (fun t => (t.acc, flags t)) =
      some (0x00#8, true, false, true, true) := by decide

theorem test_inc_wraps :
    seen (exec (.inc 0x20#7) { at20 0x00#8 0xFF#8 true with ov := true }) (fun t => (at20H t, flags t)) =
      some (0x00#8, true, false, true, true) := by decide

theorem test_inca :
    seen (exec (.inca 0x20#7) { at20 0x00#8 0x7F#8 true with ov := true }) (fun t => (t.acc, flags t)) =
      some (0x80#8, true, false, true, false) := by decide

theorem test_dec_wraps :
    seen (exec (.dec 0x20#7) { at20 0x00#8 0x00#8 true with ov := true }) (fun t => (at20H t, flags t)) =
      some (0xFF#8, true, false, true, false) := by decide

theorem test_deca_zero :
    seen (exec (.deca 0x20#7) { at20 0x77#8 0x01#8 true with ov := true }) (fun t => (t.acc, flags t)) =
      some (0x00#8, true, false, true, true) := by decide

/-- MP = 7FH reads FFH, the result 00H sets Z, MP gets 00H (R63). -/
theorem test_inc_mp : seen (exec (.inc 0x01#7) { at20 0x00#8 0x00#8 with mp := 0x7F#7 })
    (fun t => (t.mp, t.z)) = some (0x00#7, true) := by decide

/-! ## Rotates (V 2.6): Z stays -/

theorem test_rr :
    seen (exec (.rr 0x20#7) (at20 0x77#8 0xB4#8 true)) (fun t => (at20H t, flags t)) =
      some (0x5A#8, true, false, false, false) := by decide

theorem test_rra :
    seen (exec (.rra 0x20#7) (at20 0x77#8 0x01#8 false)) (fun t => (t.acc, flags t)) =
      some (0x80#8, false, false, false, false) := by decide

theorem test_rl :
    seen (exec (.rl 0x20#7) (at20 0x77#8 0xC1#8 false)) (fun t => (at20H t, flags t)) =
      some (0x83#8, false, false, false, false) := by decide

theorem test_rla :
    seen (exec (.rla 0x20#7) (at20 0x77#8 0x80#8 false)) (fun t => (t.acc, flags t)) =
      some (0x01#8, false, false, false, false) := by decide

theorem test_rrc :
    seen (exec (.rrc 0x20#7) (at20 0x77#8 0x01#8 false)) (fun t => (at20H t, flags t)) =
      some (0x00#8, true, false, false, false) := by decide

theorem test_rrca :
    seen (exec (.rrca 0x20#7) (at20 0x77#8 0x55#8 true)) (fun t => (t.acc, flags t)) =
      some (0xAA#8, true, false, false, false) := by decide

theorem test_rlc :
    seen (exec (.rlc 0x20#7) (at20 0x77#8 0x80#8 false)) (fun t => (at20H t, flags t)) =
      some (0x00#8, true, false, false, false) := by decide

theorem test_rlca :
    seen (exec (.rlca 0x20#7) (at20 0x77#8 0x41#8 true)) (fun t => (t.acc, flags t)) =
      some (0x83#8, false, false, false, false) := by decide

/-! ## Moves and bits (V 2.7, 2.8, 2.12) -/

theorem test_movI : seen (exec (.movI 0x5A#8) (at20 0x00#8 0x00#8)) (fun t => t.acc) = some 0x5A#8 := by
  decide

/-- MP = 23H reads A3H. -/
theorem test_movA_mp : seen (exec (.movA 0x01#7) { at20 0x00#8 0x00#8 with mp := 0x23#7 })
    (fun t => t.acc) = some 0xA3#8 := by decide

/-- PAC = F0H, PA = 0AH, pads 1001 above: 9AH. -/
theorem test_movA_port : seen (exec (.movA 0x12#7) { at20 0x00#8 0x00#8 with pac := 0xF0#8, pa := 0x0A#8 })
    (fun t => t.acc) = some 0x9A#8 := by decide

/-- Through MP = 21H. -/
theorem test_movM_indirect : seen (exec (.movM 0x00#7) (at20 0x3C#8 0x00#8)) (fun t => t.ram) =
    some [(0x20, 0x00#8), (0x21, 0x3C#8)] := by decide

/-- TO and PDF cannot be written. -/
theorem test_movM_status : seen (exec (.movM 0x0A#7) (at20 0xFF#8 0x00#8))
    (fun t => (flags t, t.tout, t.pdf)) = some ((true, true, true, true), false, false) := by decide

theorem test_setBit : seen (exec (.setBit 0x20#7 7#3) (at20 0x00#8 0x00#8)) at20H = some 0x80#8 := by
  decide

/-- The port hazard of R312: pads PA2 = PA1 = 0 come into the latch. -/
theorem test_clrBit_port : seen (exec (.clrBit 0x12#7 0#3)
    { at20 0x00#8 0x00#8 with pac := 0xFE#8, pa := 0xFF#8, env := [{ input with padA := 0xF9#8 }] })
    (fun t => t.pa) = some 0xF8#8 := by decide

theorem test_clrBit : seen (exec (.clrBit 0x20#7 0#3) (at20 0x00#8 0xFF#8)) at20H = some 0xFE#8 := by
  decide

/-! ## Branches (V 2.9) -/

theorem test_jmp : seen (exec (.jmp 0x2A5#10) (at20 0x00#8 0x00#8)) (fun t => (t.pc, t.sp)) =
    some (0x2A5#10, 0) := by decide

theorem test_sz_taken : seen (exec (.sz 0x20#7) (at20 0x00#8 0x00#8)) (fun t => (t.pc, t.wdt)) =
    some (0x122#10, 2) := by decide

/-- At 3FFH the skip wraps. -/
theorem test_sz_wraps : seen (exec (.sz 0x20#7) { at20 0x00#8 0x00#8 with pc := 0x3FF#10 })
    (fun t => t.pc) = some 0x001#10 := by decide

theorem test_sza : seen (exec (.sza 0x20#7) (at20 0x00#8 0x7E#8)) (fun t => (t.acc, t.pc)) =
    some (0x7E#8, 0x121#10) := by decide

theorem test_szBit : seen (exec (.szBit 0x20#7 0#3) (at20 0x00#8 0xFE#8)) (fun t => t.pc) =
    some 0x122#10 := by decide

/-- TO = 1. -/
theorem test_snzBit_to : seen (exec (.snzBit 0x0A#7 5#3) { at20 0x00#8 0x00#8 with tout := true })
    (fun t => t.pc) = some 0x122#10 := by decide

theorem test_siz : seen (exec (.siz 0x20#7) (at20 0x00#8 0xFF#8)) (fun t => (at20H t, t.pc, t.z)) =
    some (0x00#8, 0x122#10, false) := by decide

theorem test_sdz : seen (exec (.sdz 0x20#7) (at20 0x00#8 0x00#8)) (fun t => (at20H t, t.pc)) =
    some (0xFF#8, 0x121#10) := by decide

theorem test_siza : seen (exec (.siza 0x20#7) (at20 0x77#8 0xFF#8)) (fun t => (t.acc, at20H t, t.pc)) =
    some (0x00#8, 0xFF#8, 0x122#10) := by decide

theorem test_sdza : seen (exec (.sdza 0x20#7) (at20 0x77#8 0x01#8)) (fun t => (t.acc, at20H t, t.pc)) =
    some (0x00#8, 0x01#8, 0x122#10) := by decide

/-- CALL at 3FFH pushes 000H. -/
theorem test_call : seen (exec (.call 0x100#10) { at20 0x00#8 0x00#8 with pc := 0x3FF#10 })
    (fun t => (t.stack, t.sp, t.pc)) = some (0x000#10, 1, 0x100#10) := by decide

theorem test_ret : seen (exec .ret { at20 0x00#8 0x00#8 with sp := 1 }) (fun t => (t.pc, t.sp)) =
    some (0x011#10, 0) := by decide

theorem test_retA : seen (exec (.retA 0x5A#8) { at20 0x00#8 0x00#8 with sp := 1 })
    (fun t => (t.pc, t.acc)) = some (0x011#10, 0x5A#8) := by decide

theorem test_reti : seen (exec .reti { at20 0x00#8 0x00#8 with sp := 1 }) (fun t => (t.pc, t.emi)) =
    some (0x011#10, true) := by decide

/-- The computed jump: at 120H with ACC = 02H. -/
theorem test_addM_pcl : seen (exec (.addM 0x06#7) (at20 0x02#8 0x00#8))
    (fun t => (t.pc, flags t, t.wdt)) = some (0x123#10, (false, false, false, false), 2) := by decide

theorem test_clr_pcl : seen (exec (.clr 0x06#7) { at20 0x00#8 0x00#8 with pc := 0x230#10 })
    (fun t => t.pc) = some 0x200#10 := by decide

/-! ## Table reads (V 2.10) -/

theorem test_tabrdc : seen (exec (.tabrdc 0x20#7) (at20 0x00#8 0x00#8)) (fun t => (at20H t, t.tblh)) =
    some (0x5C#8, 0x2A#6) := by decide

/-- The pointer is read before it is overwritten. -/
theorem test_tabrdl_tblp : seen (exec (.tabrdl 0x07#7) (at20 0x00#8 0x00#8)) (fun t => (t.tblp, t.tblh)) =
    some (0x23#8, 0x01#6) := by decide

/-! ## Miscellaneous (V 2.11) -/

theorem test_nop : seen (exec .nop { at20 0x00#8 0x00#8 with pc := 0x3FF#10 }) (fun t => t.pc) =
    some 0x000#10 := by decide

theorem test_clr : seen (exec (.clr 0x20#7) (at20 0x00#8 0xA7#8)) (fun t => (at20H t, t.z)) =
    some (0x00#8, false) := by decide

theorem test_set : seen (exec (.set 0x20#7) (at20 0x00#8 0x00#8)) at20H = some 0xFF#8 := by decide

theorem test_swap : seen (exec (.swap 0x20#7) (at20 0x00#8 0xA5#8)) at20H = some 0x5A#8 := by decide

/-- STATUS reads 2DH; D2H goes back: C = 0, AC = 1, Z = 0, OV = 0. -/
theorem test_swap_status : seen (exec (.swap 0x0A#7)
    { at20 0x00#8 0x00#8 true with tout := true, ov := true, z := true })
    (fun t => (flags t, t.tout, t.pdf)) = some ((false, true, false, false), true, false) := by decide

theorem test_swapa : seen (exec (.swapa 0x20#7) (at20 0x00#8 0x3C#8)) (fun t => (t.acc, at20H t)) =
    some (0xC3#8, 0x3C#8) := by decide

theorem test_clrWdt : seen (exec .clrWdt { at20 0x00#8 0x00#8 with tout := true, pdf := true, wdt := 9 })
    (fun t => (t.tout, t.pdf, t.wdt)) = some (false, false, 0) := by decide

/-- The state with the two-instruction option. -/
def twoClears (f1 f2 : Bool) : State :=
  { at20 0x00#8 0x00#8 with
      tout := true, wdt := 9, wf1 := f1, wf2 := f2
      params := { params with options := { options with clrWdtTimes := .two } } }

theorem test_clrWdt1_first : seen (exec .clrWdt1 (twoClears false false))
    (fun t => (t.wf1, t.wf2, t.tout, t.wdt)) = some (true, false, true, 10) := by decide

theorem test_clrWdt2_second : seen (exec .clrWdt2 (twoClears true false))
    (fun t => (t.wf1, t.wf2, t.tout, t.wdt)) = some (false, false, false, 0) := by decide

theorem test_clrWdt_inactive : seen (exec .clrWdt (twoClears true true))
    (fun t => (t.wf1, t.wf2, t.tout, t.wdt)) = some (true, true, true, 10) := by decide

theorem test_halt : seen (exec .halt { at20 0x00#8 0x00#8 with tout := true, wdt := 9 })
    (fun t => (t.pc, t.tout, t.pdf, t.wdt, t.mode)) = some (0x121#10, false, true, 0, .halt) := by decide

/-! ## Stops (V 2.9, 2.10, 2.12) -/

theorem test_unimplemented : exec (.movA 0x0B#7) (at20 0x00#8 0x00#8) =
    .refused (.unimplementedAddress 0x0B#7) := by rfl

theorem test_tblh_write : exec (.tabrdl 0x08#7) (at20 0x00#8 0x00#8) = .refused .tblhWrite := by rfl

theorem test_pcl_at_page_end : exec (.movM 0x06#7) { at20 0x00#8 0x00#8 with pc := 0x1FF#10 } =
    .refused .pclWriteAtPageEnd := by rfl

theorem test_siz_pcl : exec (.siz 0x06#7) (at20 0x00#8 0x00#8) = .refused .skipWithPclDestination := by
  rfl

theorem test_stack_overflow : exec (.call 0x200#10) { at20 0x00#8 0x00#8 with sp := 1 } =
    .fault .stackOverflow := by rfl

theorem test_stack_underflow : exec .ret (at20 0x00#8 0x00#8) = .fault .stackUnderflow := by rfl

/-! ## Steps and events (V 2.13) -/

/-- The word at 120H spells NOP. -/
theorem test_step_nop : seen (step (at20 0x00#8 0x00#8)) (fun t => (t.pc, t.wdt, t.time)) =
    some (0x121#10, 1, 1) := by decide

/-- The word at 121H spells nothing. -/
theorem test_step_undefined : step { at20 0x00#8 0x00#8 with pc := 0x121#10 } =
    .fault .undefinedInstruction := by rfl

theorem test_fetch_word : seen (step ((at20 0x00#8 0x00#8).withFetchWord 14 0x0002)) (fun t => t.mode) =
    some .halt := by decide

/-- The watchdog on f_SYS/4 at ratio 1:1, with this many clocks counted. -/
def counted (n : Nat) (fire : Bool) : State :=
  { at20 0x55#8 0x00#8 with wdt := n, wdts := 0x00#8, pac := 0x00#8, env := [{ input with wdtFire := fire }] }

theorem test_no_timeout_before_511 : (counted 510 true).dueEvent = none := by decide
theorem test_timeout_from_511 : (counted 511 true).dueEvent = some .wdtTimeout := by decide
theorem test_no_forced_timeout_at_512 : (counted 512 false).dueEvent = none := by decide
theorem test_forced_timeout_at_513 : (counted 513 false).dueEvent = some .wdtTimeout := by decide

theorem test_timeout_run : seen (step (counted 513 false))
    (fun t => (t.pc, t.tout, t.pdf, t.acc, t.wdts, t.pac)) =
      some (0x000#10, true, false, 0x55#8, 0x07#8, 0xFF#8) := by decide

/-- Halted at 051H, watchdog on its oscillator. -/
def halted (i : Input) : State :=
  { at20 0x55#8 0x00#8 with
      mode := .halt, pc := 0x051#10, pdf := true, wdts := 0x02#8, pa := 0x5A#8, env := [i]
      params := { params with options := { options with wdtClk := .wdtOsc } } }

theorem test_timeout_halt : seen (step { halted { input with oscTicks := 2050 } with pac := 0x00#8 })
    (fun t => ((t.pc, t.tout, t.pdf, t.mode), (t.wdts, t.pac, t.pa))) =
      some ((0x000#10, true, true, .run), (0x02#8, 0x00#8, 0x5A#8)) := by decide

theorem test_wake : seen (step (halted { input with fallA := 0x08#8 }))
    (fun t => (t.pc, t.tout, t.pdf, t.mode)) = some (0x051#10, false, true, .run) := by decide

/-- PA1 is not enabled. -/
theorem test_no_wake : seen (step (halted { input with fallA := 0x02#8 })) (fun t => t.mode) =
    some .halt := by decide

theorem test_res_halt : seen (step (halted { input with resLow := true }))
    (fun t => (t.pc, t.tout, t.pdf, t.mode, t.acc, t.wdts)) =
      some (0x000#10, false, true, .run, 0x55#8, 0x07#8) := by decide

theorem test_brown_out : step { at20 0x00#8 0x00#8 with
    params := { params with options := { options with lvrEnable := false } }
    env := [{ input with lowVoltage := true }] } = .refused .brownOut := by rfl

/-! ## Witnesses: for every statement with hypotheses, a state and operands that meet them -/

theorem witness_EveryTermDecodesFromItsOneWord :
    sampleEncoding.wf = true ∧ sampleEncoding.complete := 
  ⟨sampleEncoding_wf, sampleEncoding_complete⟩

theorem witness_EveryDecodedWordIsItsTermsWord :
    params.encoding.wf = true ∧ decode params.encoding 0x0002#14 = some .halt := by decide

/-- JMP 2A5H and CALL 003H. -/
def transfers : Encoding :=
  [(0b0110_1010100101#14, .jmp 0x2A5#10), (0b0111_0000000011#14, .call 0x003#10)]

theorem witness_JumpAndCallWordsHoldTheirTarget :
    transfers.wf = true ∧ decode transfers 0b0110_1010100101#14 = some (.jmp 0x2A5#10) ∧
      decode transfers 0b0111_0000000011#14 = some (.call 0x003#10) := by decide

theorem witness_WrittenJumpAndCallWordsDecode :
    (6#4 ≠ 7#4) ∧ (0#4 ≠ 6#4) ∧ (0#4 ≠ 7#4) := by decide

theorem witness_StepRunsTheDecodedInstruction :
    (at20 0x12#8 0x34#8).mode = .run ∧ (at20 0x12#8 0x34#8).dueEvent = none ∧
      decode (at20 0x12#8 0x34#8).params.encoding ((at20 0x12#8 0x34#8).progRead (at20 0x12#8 0x34#8).pc) = some .nop := by decide

theorem witness_StepWithoutADecodedInstruction_event :
    (halted { input with resLow := true }).dueEvent = some .resLow := by decide

theorem witness_StepWithoutADecodedInstruction_word :
    ({ (at20 0x12#8 0x34#8) with pc := 0x121#10 } : State).dueEvent = none ∧
      decode params.encoding (State.progRead 0x121#10 (at20 0x12#8 0x34#8)) = none := by decide

theorem witness_StepWithoutADecodedInstruction_halt :
    (halted input).mode = .halt ∧ (halted input).dueEvent = none := by decide

theorem witness_PlacedWordRunsNext :
    decode (at20 0x12#8 0x34#8).params.encoding (BitVec.ofNat 14 0x0002) = some .halt := by decide

/-- The state halted, with an encoding that meets R94. -/
def lawfulHalted : State :=
  { halted input with params := { params with encoding := sampleEncoding } }

theorem witness_EveryStepKeepsTheInvariant : lawfulHalted.inv ∧ ∃ t, step lawfulHalted = .next t :=
  ⟨⟨sampleEncoding_lawful, by decide, by decide, by decide, by decide⟩, _, rfl⟩

theorem witness_NoStepChangesProgramOrOptions : ∃ t, step (at20 0x12#8 0x34#8) = .next t :=
  ⟨_, rfl⟩

theorem witness_LocationZeroGoesThroughMp :
    (at20 0x12#8 0x34#8).mp ≠ 0x00#7 ∧ ({ (at20 0x12#8 0x34#8) with mp := 0x00#7 } : State).mp = 0x00#7 := by decide

theorem witness_RamKeepsWhatIsWritten :
    gprBase (at20 0x12#8 0x34#8).params ≤ (0x20#7 : DataAddr).toNat ∧
      (0x3F#7 : DataAddr).toNat < gprBase (at20 0x12#8 0x34#8).params + 32 ∧ (0x20#7 : DataAddr) ≠ 0x00#7 ∧ (0x3F#7 : DataAddr) ≠ 0x00#7 := by decide

theorem witness_AbsentOperandsAndTblhWritesAreRefused :
    (at20 0x12#8 0x34#8).standsAtPageEnd = false ∧
      dataOperand (.addA 0x1F#7) = some 0x1F#7 ∧ (at20 0x12#8 0x34#8).resolve 0x1F#7 = .absent 0x1F#7 ∧
      dataOperand (.sz 0x40#7) = some 0x40#7 ∧ (at20 0x12#8 0x34#8).resolve 0x40#7 = .absent 0x40#7 ∧
      memoryDestination (.clr 0x08#7) = some 0x08#7 ∧ (at20 0x12#8 0x34#8).resolve 0x08#7 = .tblh := by decide

/-- The same state at the last address of page 1. -/
def pageEnd : State :=
  { (at20 0x12#8 0x34#8) with pc := 0x1FF#10 }

/-- There all but TABRDC meet the premise. -/
theorem witness_AbsentOperandsAndTblhWritesAreRefused_pageEnd :
    (.clr 0x1F#7 : Instr) ≠ .tabrdc 0x1F#7 ∧ pageEnd.standsAtPageEnd = true ∧
      dataOperand (.clr 0x1F#7) = some 0x1F#7 ∧ pageEnd.resolve 0x1F#7 = .absent 0x1F#7 := by decide

theorem witness_PageEndAndSkipOnPclAreRefused :
    pageEnd.resolve 0x06#7 = .pcl ∧ pageEnd.standsAtPageEnd = true ∧
      memoryDestination (.movM 0x06#7) = some 0x06#7 ∧ (.movM 0x06#7 : Instr) ≠ .siz 0x06#7 ∧
      (.movM 0x06#7 : Instr) ≠ .sdz 0x06#7 ∧ (.movM 0x06#7 : Instr) ≠ .tabrdc 0x06#7 := by decide

theorem witness_AddAndSubtractIntoTheAccumulator :
    (at20 0x12#8 0x34#8).operandByte 0x20#7 = some 0x34#8 := by decide

theorem witness_ArithmeticIntoMemory :
    (at20 0x12#8 0x34#8).operandByte 0x20#7 = some 0x34#8 ∧ (at20 0x12#8 0x34#8).writable 0x20#7 = true ∧
      (at20 0x12#8 0x34#8).resolve 0x20#7 ≠ .status := by decide

theorem witness_DaaAdjustsTheAccumulatorIntoMemory :
    (at20 0x12#8 0x34#8).writable 0x20#7 = true ∧ (at20 0x12#8 0x34#8).resolve 0x20#7 ≠ .status := by decide

/-- 99 + 99 with a carry in, and 0 + 0 without. -/
theorem witness_DaaCorrectsDecimalAddition :
    (99 < 100 ∧ (0x99#8 : Byte).toNat = 16 * (99 / 10) + 99 % 10) ∧
      (0 < 100 ∧ (0x00#8 : Byte).toNat = 16 * (0 / 10) + 0 % 10) ∧
      (add8 0x99#8 0x99#8 true).flags.c = some true ∧ (add8 0x99#8 0x99#8 true).flags.ac = some true ∧
      (add8 0x00#8 0x00#8 false).flags.c = some false ∧ (add8 0x00#8 0x00#8 false).flags.ac = some false := by decide

theorem witness_FlagWritersOnStatusLeaveTheirFlagsOpen :
    (at20 0x12#8 0x34#8).resolve 0x0A#7 = .status ∧
      ({ (at20 0x12#8 0x34#8) with mp := 0x0A#7 } : State).resolve 0x00#7 = .status := by decide

theorem witness_LogicIntoTheAccumulator :
    (at20 0x12#8 0x34#8).operandByte 0x20#7 = some 0x34#8 := by decide

theorem witness_LogicIntoMemory :
    (at20 0x12#8 0x34#8).operandByte 0x20#7 = some 0x34#8 ∧ (at20 0x12#8 0x34#8).writable 0x20#7 = true ∧
      (at20 0x12#8 0x34#8).resolve 0x20#7 ≠ .status := by decide

theorem witness_IncrementsAndDecrementsWriteOnlyZ :
    (at20 0x12#8 0x34#8).operandByte 0x20#7 = some 0x34#8 ∧ (at20 0x12#8 0x34#8).writable 0x20#7 = true ∧
      (at20 0x12#8 0x34#8).resolve 0x20#7 ≠ .status := by decide

theorem witness_RotatesIntoMemory :
    (at20 0x12#8 0x34#8).operandByte 0x20#7 = some 0x34#8 ∧ (at20 0x12#8 0x34#8).writable 0x20#7 = true ∧
      (at20 0x12#8 0x34#8).resolve 0x20#7 ≠ .status := by decide

theorem witness_RotatesIntoTheAccumulator :
    (at20 0x12#8 0x34#8).operandByte 0x20#7 = some 0x34#8 := by decide

theorem witness_MovesCopyAByteAndNoFlag :
    (at20 0x12#8 0x34#8).operandByte 0x20#7 = some 0x34#8 ∧ (at20 0x12#8 0x34#8).writable 0x20#7 = true := by decide

theorem witness_BitInstructionsWriteTheWholeByteBack :
    (at20 0x12#8 0x34#8).operandByte 0x20#7 = some 0x34#8 ∧ (at20 0x12#8 0x34#8).writable 0x20#7 = true := by decide

theorem witness_ClearSetAndSwapWriteNoFlag :
    (at20 0x12#8 0x34#8).operandByte 0x20#7 = some 0x34#8 ∧ (at20 0x12#8 0x34#8).writable 0x20#7 = true := by decide

/-- Bytes on which the skips are and are not taken. -/
theorem witness_SkipsThatWriteNoMemory :
    (at20 0x12#8 0x00#8).operandByte 0x20#7 = some 0x00#8 ∧
      (at20 0x12#8 0xFF#8).operandByte 0x20#7 = some 0xFF#8 ∧
      (at20 0x12#8 0x01#8).operandByte 0x20#7 = some 0x01#8 := by decide

theorem witness_SkipsThatWriteMemory :
    (at20 0x12#8 0x34#8).operandByte 0x20#7 = some 0x34#8 ∧ (at20 0x12#8 0x34#8).writable 0x20#7 = true ∧
      (at20 0x12#8 0x34#8).resolve 0x20#7 ≠ .pcl := by decide

theorem witness_CallAndReturnsUseTheOneStackLevel :
    (at20 0x12#8 0x34#8).sp = 0 ∧ ({ (at20 0x12#8 0x34#8) with sp := 1 } : State).sp = 1 := by decide

theorem witness_ReturnAfterCallComesBack : ∃ t, exec (.call 0x200#10) (at20 0x12#8 0x34#8) = .next t :=
  ⟨_, rfl⟩

/-- Next to the page end, directly and through MP. -/
theorem witness_WritingPclJumpsWithinThePage :
    ({ (at20 0x12#8 0x34#8) with pc := 0x1FE#10 } : State).standsAtPageEnd = false ∧
      (at20 0x12#8 0x34#8).resolve 0x06#7 = .pcl ∧
      ({ (at20 0x12#8 0x34#8) with mp := 0x06#7 } : State).resolve 0x00#7 = .pcl ∧
      memoryDestination (.clrBit 0x06#7 7#3) = some 0x06#7 ∧
      memoryDestination (.tabrdc 0x06#7) = some 0x06#7 := by decide

/-- Ports A and B, directly and through MP. -/
theorem witness_BitInstructionOnPortCopiesPadsIntoTheLatch :
    (at20 0x12#8 0x34#8).resolve 0x12#7 = .portA ∧ (at20 0x12#8 0x34#8).resolve 0x14#7 = .portB ∧
      ({ (at20 0x12#8 0x34#8) with mp := 0x14#7 } : State).resolve 0x00#7 = .portB := by decide

theorem witness_TableReadsSplitTheWord :
    (at20 0x12#8 0x34#8).writable 0x20#7 = true ∧ (at20 0x12#8 0x34#8).standsAtPageEnd = false := by decide

theorem witness_ClearInstructionsOfAnEnabledWatchdog :
    (at20 0x12#8 0x34#8).params.options.wdtEnable = true ∧
      (at20 0x12#8 0x34#8).params.options.clrWdtTimes = .one ∧
      (twoClears true false).params.options.wdtEnable = true ∧
      (twoClears true false).params.options.clrWdtTimes = .two := by decide

/-- The state with the watchdog disabled. -/
def noWatchdog (times : ClrWdtTimes) (clears : Bool) : State :=
  { (at20 0x12#8 0x34#8) with
      pdf := true, wf1 := true
      params := { params with
        wdtDisClrFlags := clears
        options := { options with wdtEnable := false, clrWdtTimes := times } } }

/-- R250: the second of the pair clears PDF, and no counter, only under the argument. -/
theorem test_clrWdt2_disabled :
    seen (exec .clrWdt2 (noWatchdog .two true)) (fun t => (t.pdf, t.wdt)) = some (false, 0) ∧
      seen (exec .clrWdt2 (noWatchdog .two false)) (fun t => (t.pdf, t.wdt)) = some (true, 0) := by decide

theorem witness_ClearInstructionsOfADisabledWatchdog :
    ((noWatchdog .one false).params.options.wdtEnable = false ∧
      (noWatchdog .one false).params.wdtDisClrFlags = false) ∧
    ((noWatchdog .one true).params.wdtDisClrFlags = true ∧
      (noWatchdog .one true).params.options.clrWdtTimes = .one) ∧
    (noWatchdog .two true).params.options.clrWdtTimes = .two := by decide

theorem witness_InstructionsWriteOnlyTheFlagsOfTheirRow :
    (∃ t, exec (.inc 0x20#7) (at20 0x12#8 0x34#8) = .next t) ∧
      ∀ m, memoryDestination (.inc 0x20#7) = some m → (at20 0x12#8 0x34#8).resolve m ≠ .status :=
  ⟨⟨_, rfl⟩, by simp only [memoryDestination, Option.some.injEq, forall_eq']; decide⟩

theorem witness_PowerFlagsChangeOnlyByWatchdogAndHalt :
    (∃ t, exec (.movM 0x0A#7) (at20 0x12#8 0x34#8) = .next t) ∧ flagRow (.movM 0x0A#7) ≠ .power ∧
      ∃ t, step (counted 513 false) = .next t ∧ t.tout = true :=
  ⟨⟨_, rfl⟩, by decide, _, rfl, rfl⟩

theorem witness_HiddenStateHasItsOwnWriters : ∃ t, exec .nop (at20 0x12#8 0x34#8) = .next t :=
  ⟨_, rfl⟩

theorem witness_TheProgramCounterGoesNowhereElse : ∃ t, exec (.sz 0x20#7) (at20 0x12#8 0x34#8) = .next t :=
  ⟨_, rfl⟩

theorem witness_CyclesAdvanceTheWatchdog :
    (∃ t, exec (.siz 0x20#7) (at20 0x12#8 0x34#8) = .next t) ∧ flagRow (.siz 0x20#7) ≠ .power :=
  ⟨⟨_, rfl⟩, by decide⟩

/-- A state in RUN mode with an input. -/
def under (i : Input) : State :=
  { (at20 0x12#8 0x34#8) with env := [i] }

theorem witness_PowerOnInitialisesTheMachine :
    (under { input with powerOn := true }).dueEvent = some .powerOn := by decide

theorem witness_ResResetKeepsTheDataRegisters :
    (under { input with resLow := true }).dueEvent = some .resLow ∧
      (under { input with lowVoltage := true }).dueEvent = some .lowVoltage ∧
      (under { input with lowVoltage := true }).params.options.lvrEnable = true ∧
      (halted { input with resLow := true }).dueEvent = some .resLow ∧
      (under input).params.ramSurvivesReset = true := by decide

theorem witness_TimeoutInRunModeIsAChipReset :
    (counted 513 false).dueEvent = some .wdtTimeout ∧ (counted 513 false).mode = .run := by decide

theorem witness_TimeoutInHaltModeIsAWarmReset :
    (halted { input with oscTicks := 2050 }).dueEvent = some .wdtTimeout ∧
      (halted { input with oscTicks := 2050 }).mode = .halt := by decide

theorem witness_ChipResetsLeaveTheFunctionalUnitsInitialised :
    (counted 513 false).dueEvent = some .wdtTimeout ∧ Event.wdtTimeout ≠ .wakeA ∧
      (counted 513 false).mode = .run ∧ ∃ t, step (counted 513 false) = .next t :=
  ⟨by decide, by decide, by decide, _, rfl⟩

theorem witness_ChipResetsLeaveTheFunctionalUnitsInitialised_warm :
    (halted { input with oscTicks := 2050 }).dueEvent = some .wdtTimeout ∧
      (halted { input with oscTicks := 2050 }).mode = .halt ∧
      ∃ t, step (halted { input with oscTicks := 2050 }) = .next t :=
  ⟨by decide, by decide, _, rfl⟩

/-- Line 3 and line 0, the enabled ones. -/
theorem witness_PortAEdgeWakesTheCore :
    (halted { input with fallA := 0x08#8 }).mode = .halt ∧
      (halted { input with fallA := 0x08#8 }).input.fallA.getLsbD 3 = true ∧
      (halted { input with fallA := 0x08#8 }).params.options.paWake.getLsbD 3 = true ∧
      (halted { input with fallA := 0x08#8 }).pac.getLsbD 3 = true ∧
      (halted { input with fallA := 0x08#8 }).input.powerOn = false ∧
      (halted { input with fallA := 0x08#8 }).input.lowVoltage = false ∧
      (halted { input with fallA := 0x08#8 }).input.resLow = false ∧
      (halted { input with fallA := 0x08#8 }).atBoundary.wdtDue false = false := by decide

/-- The same beside a time-out that is put second. -/
theorem witness_PortAEdgeWakesTheCore_beside_timeout :
    (halted { input with oscTicks := 2050, fallA := 0x01#8, wakeFirst := true }).input.wakeFirst = true ∧
      (halted { input with oscTicks := 2050, fallA := 0x01#8 }).atBoundary.wdtDue false = true ∧
      (halted { input with fallA := 0x01#8 }).params.options.paWake.getLsbD 0 = true ∧
      (halted { input with fallA := 0x01#8 }).pac.getLsbD 0 = true := by decide

theorem witness_HaltModeEndsOnlyByAnEvent :
    (halted { input with fallA := 0x08#8 }).mode = .halt ∧
      ∃ t, step (halted { input with fallA := 0x08#8 }) = .next t ∧ t.mode = .run :=
  ⟨by decide, _, rfl, rfl⟩

/-- A time-out and an edge due together, each put first once; and a low supply with the LVR disabled. -/
theorem witness_ResetsPrevailOverTimeoutAndWakeup :
    (halted { input with oscTicks := 2050, fallA := 0x01#8, wakeFirst := true }).dueEvent = some .wakeA ∧
      (halted { input with oscTicks := 2050, fallA := 0x01#8 }).dueEvent = some .wdtTimeout ∧
      (under { input with powerOn := true, resLow := true }).dueEvent = some .powerOn ∧
      ({ under { input with lowVoltage := true } with
          params := { params with options := { options with lvrEnable := false } } } :
        State).dueEvent = some .lowVoltage := by decide

theorem witness_ResetsPrevailOverTimeoutAndWakeup_both_due :
    (halted { input with oscTicks := 2050, fallA := 0x01#8 }).atBoundary.wakes
        { input with oscTicks := 2050, fallA := 0x01#8 } = true ∧
      (halted { input with oscTicks := 2050, fallA := 0x01#8 }).atBoundary.wdtDue false = true ∧
      (halted { input with oscTicks := 2050 }).atBoundary.wakes { input with oscTicks := 2050 } = false := by
  decide

theorem witness_OscillatorWatchdogCountsUntilClearedOrTheRunStops :
    (halted input).params.options.wdtEnable = true ∧
      (halted input).params.options.wdtClk = .wdtOsc ∧ (halted input).mode = .halt := by decide

/-- At the ends of the window. -/
theorem witness_TimeoutsFallInTheirWindow :
    (counted 511 true).dueEvent = some .wdtTimeout ∧
      (counted 513 false).params.options.wdtEnable = true ∧ (counted 513 false).mode = .run ∧
      (counted 513 false).wsChanged = false ∧
      512 * 2 ^ ((counted 513 false).wdts.toNat % 8) + 1 ≤ (counted 513 false).atBoundary.wdt ∧
      (counted 513 false).input.fallA = 0#8 ∧ (counted 513 false).input.resLow = false ∧
      ({ counted 255 true with wsChanged := true } : State).dueEvent = some .wdtTimeout := by decide

end Sys2Proof.Tests
end

section
/-!
SUPPORT. What an instruction can do, said once for all 63 (`Effect`, `exec_effect`): every rule over all
instructions is a case split on it.
-/
namespace Sys2Proof.Machine

/-! ## What the data path keeps -/

/-- `t` has everything of `s` that no write of a data address, of ACC or of the program counter reaches. -/
structure KeepsControl (s t : State) : Prop where
  stack : t.stack = s.stack
  sp : t.sp = s.sp
  pdf : t.pdf = s.pdf
  tout : t.tout = s.tout
  tblh : t.tblh = s.tblh
  wf1 : t.wf1 = s.wf1
  wf2 : t.wf2 = s.wf2
  emi : t.emi = s.emi
  mode : t.mode = s.mode
  rom : t.rom = s.rom
  params : t.params = s.params
  env : t.env = s.env
  time : t.time = s.time
  ramEpoch : t.ramEpoch = s.ramEpoch

theorem KeepsControl.trans {s t u : State} (h : KeepsControl s t) (k : KeepsControl t u) :
    KeepsControl s u where
  stack := k.stack.trans h.stack
  sp := k.sp.trans h.sp
  pdf := k.pdf.trans h.pdf
  tout := k.tout.trans h.tout
  tblh := k.tblh.trans h.tblh
  wf1 := k.wf1.trans h.wf1
  wf2 := k.wf2.trans h.wf2
  emi := k.emi.trans h.emi
  mode := k.mode.trans h.mode
  rom := k.rom.trans h.rom
  params := k.params.trans h.params
  env := k.env.trans h.env
  time := k.time.trans h.time
  ramEpoch := k.ramEpoch.trans h.ramEpoch

theorem State.startInstr_keepsControl (n : Nat) (s : State) : KeepsControl s (s.startInstr n) := by
  constructor <;> rfl

theorem State.setAcc_keepsControl (v : Byte) (s : State) : KeepsControl s (s.setAcc v) := by
  constructor <;> rfl

theorem State.jumpTo_keepsControl (a : ProgAddr) (s : State) : KeepsControl s (s.jumpTo a) := by
  constructor <;> rfl

theorem State.applyFlags_keepsControl (u : FlagUpdate) (s : State) :
    KeepsControl s (s.applyFlags u) := by
  constructor <;> rfl

theorem State.putAcc_keepsControl (o : AluOut) (s : State) : KeepsControl s (s.putAcc o) :=
  (s.setAcc_keepsControl o.value).trans (State.applyFlags_keepsControl o.flags _)

theorem State.skipIf_keepsControl (b : Bool) (s : State) : KeepsControl s (s.skipIf b) := by
  constructor <;> simp

/-- A write of TBLH is refused (R67, D13), and one of STATUS leaves TO and PDF (R69). -/
theorem State.writeLoc_keepsControl {l : Loc} {v : Byte} {s t : State}
    (h : s.writeLoc l v = .next t) : KeepsControl s t := by
  rcases State.writeLoc_next h with ⟨-, rfl⟩ | ⟨-, rfl⟩ | ⟨-, rfl⟩ | ⟨-, -, rfl⟩ | ⟨-, rfl⟩ |
    ⟨-, rfl⟩ | ⟨-, rfl⟩ | ⟨-, rfl⟩ | ⟨-, rfl⟩ | ⟨-, rfl⟩ | ⟨-, rfl⟩ | ⟨_, -, rfl⟩ <;>
  constructor <;> rfl

theorem State.putLoc_keepsControl {l : Loc} {o : AluOut} {s t : State}
    (h : s.putLoc l o = .next t) : KeepsControl s t := by
  obtain ⟨u, hu, rfl⟩ := State.putLoc_next h
  exact (State.writeLoc_keepsControl hu).trans (u.applyFlags_keepsControl _)

/-! ## The flags of a row (R26) -/

/-- A flag update writes no flag outside a row of the flag table. -/
structure FlagUpdate.Fits (u : FlagUpdate) (row : FlagRow) : Prop where
  c : row = .arithmetic ∨ row = .carryOnly ∨ u.c = none
  ac : row = .arithmetic ∨ u.ac = none
  z : row = .arithmetic ∨ row = .zeroOnly ∨ u.z = none
  ov : row = .arithmetic ∨ u.ov = none

theorem FlagUpdate.fits_arithmetic (u : FlagUpdate) : u.Fits .arithmetic :=
  ⟨.inl rfl, .inl rfl, .inl rfl, .inl rfl⟩

theorem zeroFlagged_fits (v : Byte) : (zeroFlagged v).flags.Fits .zeroOnly :=
  ⟨.inr (.inr rfl), .inr rfl, .inr (.inl rfl), .inr rfl⟩

theorem unflagged_fits (v : Byte) (row : FlagRow) : (unflagged v).flags.Fits row :=
  ⟨.inr (.inr rfl), .inr rfl, .inr (.inr rfl), .inr rfl⟩

/-- DAA and the rotates through carry write C alone. -/
theorem FlagUpdate.fits_carryOnly (b : Bool) : ({ c := some b } : FlagUpdate).Fits .carryOnly :=
  ⟨.inr (.inl rfl), .inr rfl, .inr (.inr rfl), .inr rfl⟩

/-- `t` has the flags C, AC, Z and OV of `s`, but for those of a row of the flag table. -/
structure KeepsFlagsBut (row : FlagRow) (s t : State) : Prop where
  c : row = .arithmetic ∨ row = .carryOnly ∨ t.c = s.c
  ac : row = .arithmetic ∨ t.ac = s.ac
  z : row = .arithmetic ∨ row = .zeroOnly ∨ t.z = s.z
  ov : row = .arithmetic ∨ t.ov = s.ov

/-- Equal flags are kept whatever the row. -/
theorem KeepsFlagsBut.of_eq {s t : State} (row : FlagRow) (c : t.c = s.c) (ac : t.ac = s.ac)
    (z : t.z = s.z) (ov : t.ov = s.ov) : KeepsFlagsBut row s t :=
  ⟨.inr (.inr c), .inr ac, .inr (.inr z), .inr ov⟩

theorem KeepsFlagsBut.trans {row : FlagRow} {s t u : State} (h : KeepsFlagsBut row s t)
    (k : KeepsFlagsBut row t u) : KeepsFlagsBut row s u := by
  obtain ⟨hc, hac, hz, hov⟩ := h
  obtain ⟨kc, kac, kz, kov⟩ := k
  constructor <;> grind

theorem FlagUpdate.Fits.keepsFlagsBut {u : FlagUpdate} {row : FlagRow} (h : u.Fits row)
    (s : State) : KeepsFlagsBut row s (s.applyFlags u) where
  c := h.c.imp_right (.imp_right fun hu => by simp [hu])
  ac := h.ac.imp_right fun hu => by simp [hu]
  z := h.z.imp_right (.imp_right fun hu => by simp [hu])
  ov := h.ov.imp_right fun hu => by simp [hu]

/-- Only a write of STATUS reaches a flag as data. -/
theorem State.writeLoc_keepsFlags {l : Loc} {v : Byte} {s t : State} (row : FlagRow)
    (hl : l ≠ .status) (h : s.writeLoc l v = .next t) : KeepsFlagsBut row s t := by
  rcases State.writeLoc_next h with ⟨-, rfl⟩ | ⟨-, rfl⟩ | ⟨-, rfl⟩ | ⟨-, -, rfl⟩ | ⟨-, rfl⟩ |
    ⟨-, rfl⟩ | ⟨hs, -⟩ | ⟨-, rfl⟩ | ⟨-, rfl⟩ | ⟨-, rfl⟩ | ⟨-, rfl⟩ | ⟨_, -, rfl⟩
  case inr.inr.inr.inr.inr.inr.inl => exact absurd hs hl
  all_goals exact .of_eq row rfl rfl rfl rfl

/-! ## The effect of an instruction -/

/-- The place of an instruction in the tables of destinations (R214), skips (R200) and cycles (R320). -/
structure Traits (i : Instr) (dest : Option DataAddr) (skips : Bool) (cycles : Nat) : Prop where
  dest : memoryDestination i = dest
  skips : isSkip i = skips
  cycles : baseCycles i = cycles

/-- What an instruction can do that moves data, skips or jumps: the state `t` it leaves, from `s`. -/
inductive DataEffect : Instr → State → State → Prop
  /-- A result and its flags go to ACC and STATUS. -/
  | toAcc {i s} (o : AluOut) (traits : Traits i none false 1) (fits : o.flags.Fits (flagRow i)) :
      DataEffect i s ((s.startInstr 1).putAcc o)
  /-- A result and its flags go to `[m]` and STATUS. -/
  | toMem {i s m t} (o : AluOut) (traits : Traits i (some m) false 1)
      (fits : o.flags.Fits (flagRow i)) (put : (s.startInstr 1).putLoc (s.resolve m) o = .next t) :
      DataEffect i s t
  /-- A skip that writes nothing. -/
  | skip {i s} (b : Bool) (traits : Traits i none true 1) :
      DataEffect i s ((s.startInstr 1).skipIf b)
  /-- A skip whose result goes to ACC. -/
  | skipAcc {i s} (v : Byte) (b : Bool) (traits : Traits i none true 1) :
      DataEffect i s (((s.startInstr 1).setAcc v).skipIf b)
  /-- A skip whose result goes to `[m]`, which is not PCL (D12). -/
  | skipMem {i s m u} (v : Byte) (b : Bool) (traits : Traits i (some m) true 1)
      (notPcl : s.resolve m ≠ .pcl)
      (write : (s.startInstr 1).writeLoc (s.resolve m) v = .next u) : DataEffect i s (u.skipIf b)
  | nop {s} : DataEffect .nop s (s.startInstr 1)
  | jmp {s} (a : ProgAddr) : DataEffect (.jmp a) s ((s.startInstr 2).jumpTo a)

/-- Everything an instruction that completes can do. Beside `data` stand the instructions that own some of
the state that `KeepsControl` lists. -/
inductive Effect : Instr → State → State → Prop
  | data {i s t} (d : DataEffect i s t) : Effect i s t
  /-- A table read. -/
  | table {i s m u} (lo : Byte) (hi : BitVec 6) (traits : Traits i (some m) false 2)
      (reads : i = .tabrdc m ∨ i = .tabrdl m)
      (write : (s.startInstr 2).writeLoc (s.resolve m) lo = .next u) :
      Effect i s { u with tblh := hi }
  | call {s} (a : ProgAddr) (room : s.sp ≠ 1) : Effect (.call a) s ((s.startInstr 2).pushCall a)
  | ret {s} (held : s.sp ≠ 0) : Effect .ret s (s.startInstr 2).popReturn
  | retA {s} (x : Byte) (held : s.sp ≠ 0) :
      Effect (.retA x) s ((s.startInstr 2).popReturn.setAcc x)
  | reti {s} (held : s.sp ≠ 0) : Effect .reti s { (s.startInstr 2).popReturn with emi := true }
  /-- A clear instruction that does not complete a clear, and may set a mark. -/
  | marks {i s} (w1 w2 : Bool) (power : flagRow i = .power) (traits : Traits i none false 1) :
      Effect i s { s.startInstr 1 with wf1 := w1, wf2 := w2 }
  /-- A clear instruction that completes a clear. -/
  | clears {i s} (w1 w2 : Bool) (power : flagRow i = .power) (traits : Traits i none false 1) :
      Effect i s { (s.startInstr 1).serviceWatchdog with wf1 := w1, wf2 := w2 }
  | halt {s} : Effect .halt s
      { (s.startInstr 1).clearWatchdog.drawMarks with pdf := true, tout := false, mode := .halt }

/-! ## The effect of each shape -/

section shapes
variable {i : Instr} {m : DataAddr} {s t : State}

theorem operandToAcc_effect {f : State → Byte → AluOut} (h : operandToAcc f m s = .next t)
    (fits : ∀ t v, (f t v).flags.Fits (flagRow i))
    (traits : Traits i none false 1 := by exact ⟨rfl, rfl, rfl⟩) : DataEffect i s t := by
  obtain ⟨v, -, rfl⟩ := operandToAcc_next h
  exact .toAcc _ traits (fits _ v)

theorem operandToMem_effect {f : State → Byte → AluOut} (h : operandToMem f m s = .next t)
    (fits : ∀ t v, (f t v).flags.Fits (flagRow i))
    (traits : Traits i (some m) false 1 := by exact ⟨rfl, rfl, rfl⟩) : DataEffect i s t := by
  obtain ⟨v, -, put⟩ := operandToMem_next h
  exact .toMem _ traits (fits _ v) put

theorem valueToMem_effect {f : State → AluOut} (h : valueToMem f m s = .next t)
    (fits : ∀ t, (f t).flags.Fits (flagRow i))
    (traits : Traits i (some m) false 1 := by exact ⟨rfl, rfl, rfl⟩) : DataEffect i s t :=
  .toMem _ traits (fits _) h

theorem immediateToAcc_effect {f : State → AluOut} (h : immediateToAcc f s = .next t)
    (fits : ∀ t, (f t).flags.Fits (flagRow i))
    (traits : Traits i none false 1 := by exact ⟨rfl, rfl, rfl⟩) : DataEffect i s t := by
  cases h
  exact .toAcc _ traits (fits _)

theorem skipOnOperand_effect {p : Byte → Bool} (h : skipOnOperand p m s = .next t)
    (traits : Traits i none true 1 := by exact ⟨rfl, rfl, rfl⟩) : DataEffect i s t := by
  obtain ⟨v, -, rfl⟩ := skipOnOperand_next h
  exact .skip _ traits

theorem skipToAcc_effect {f : Byte → Byte} (h : skipToAcc f m s = .next t)
    (traits : Traits i none true 1 := by exact ⟨rfl, rfl, rfl⟩) : DataEffect i s t := by
  obtain ⟨v, -, rfl⟩ := skipToAcc_next h
  exact .skipAcc _ _ traits

theorem skipToMem_effect {f : Byte → Byte} (h : skipToMem f m s = .next t)
    (traits : Traits i (some m) true 1 := by exact ⟨rfl, rfl, rfl⟩) : DataEffect i s t := by
  obtain ⟨v, u, -, notPcl, write, rfl⟩ := skipToMem_next h
  exact .skipMem _ _ traits notPcl write

theorem tableRead_effect {ta : ProgAddr} (h : tableRead ta m (s.startInstr 2) = .next t)
    (reads : i = .tabrdc m ∨ i = .tabrdl m) : Effect i s t := by
  obtain ⟨u, write, rfl⟩ := tableRead_next h
  exact .table _ _ (by rcases reads with rfl | rfl <;> exact ⟨rfl, rfl, rfl⟩) reads write

/-- At a page end TABRDC answers no next state (D7). -/
theorem execTabrdc_effect (h : execTabrdc m s = .next t) : Effect (.tabrdc m) s t := by
  simp only [execTabrdc] at h
  split at h
  · cases h
  · exact tableRead_effect h (.inl rfl)

theorem execCall_effect {a : ProgAddr} (h : execCall a s = .next t) : Effect (.call a) s t := by
  unfold execCall at h
  split at h
  · cases h
  · cases h; exact .call a ‹_›

theorem execRet_effect (h : execRet s = .next t) : Effect .ret s t := by
  unfold execRet at h
  split at h
  · cases h
  · cases h; exact .ret ‹_›

theorem execRetA_effect {x : Byte} (h : execRetA x s = .next t) : Effect (.retA x) s t := by
  unfold execRetA at h
  split at h
  · cases h
  · cases h; exact .retA x ‹_›

theorem execReti_effect (h : execReti s = .next t) : Effect .reti s t := by
  unfold execReti at h
  split at h
  · cases h
  · cases h; exact .reti ‹_›

theorem execClrWdt_effect (h : execClrWdt s = .next t) : Effect .clrWdt s t := by
  simp only [execClrWdt] at h
  split at h
  · cases h; exact .clears _ _ rfl ⟨rfl, rfl, rfl⟩
  · cases h; exact .marks _ _ rfl ⟨rfl, rfl, rfl⟩

theorem execClrWdt1_effect (h : execClrWdt1 s = .next t) : Effect .clrWdt1 s t := by
  simp only [execClrWdt1] at h
  split at h
  · split at h
    · cases h; exact .clears _ _ rfl ⟨rfl, rfl, rfl⟩
    · cases h; exact .marks _ _ rfl ⟨rfl, rfl, rfl⟩
  · cases h; exact .marks _ _ rfl ⟨rfl, rfl, rfl⟩

theorem execClrWdt2_effect (h : execClrWdt2 s = .next t) : Effect .clrWdt2 s t := by
  simp only [execClrWdt2] at h
  split at h
  · split at h
    · cases h; exact .clears _ _ rfl ⟨rfl, rfl, rfl⟩
    · cases h; exact .marks _ _ rfl ⟨rfl, rfl, rfl⟩
  · cases h; exact .marks _ _ rfl ⟨rfl, rfl, rfl⟩

end shapes

/-- Every instruction has an effect of one of the kinds listed, with the flags of its row. -/
theorem exec_effect {i : Instr} {s t : State} (h : exec i s = .next t) : Effect i s t := by
  cases i with
  | nop => cases h; exact .data .nop
  | clrWdt => exact execClrWdt_effect h
  | clrWdt1 => exact execClrWdt1_effect h
  | clrWdt2 => exact execClrWdt2_effect h
  | halt => cases h; exact .halt
  | ret => exact execRet_effect h
  | reti => exact execReti_effect h
  | addA | adcA | subA | sbcA =>
    simp only [exec, execAddA, execAdcA, execSubA, execSbcA] at h
    exact .data (operandToAcc_effect h fun _ _ => FlagUpdate.fits_arithmetic _)
  | addM | adcM | subM | sbcM =>
    simp only [exec, execAddM, execAdcM, execSubM, execSbcM] at h
    exact .data (operandToMem_effect h fun _ _ => FlagUpdate.fits_arithmetic _)
  | daa =>
    simp only [exec, execDaa] at h
    exact .data (valueToMem_effect h fun _ => FlagUpdate.fits_carryOnly _)
  | andA | orA | xorA | cpla | inca | deca =>
    simp only [exec, execAndA, execOrA, execXorA, execCpla, execInca, execDeca] at h
    exact .data (operandToAcc_effect h fun _ _ => zeroFlagged_fits _)
  | andM | orM | xorM | cpl | inc | dec =>
    simp only [exec, execAndM, execOrM, execXorM, execCpl, execInc, execDec] at h
    exact .data (operandToMem_effect h fun _ _ => zeroFlagged_fits _)
  | rra | rla | movA | swapa =>
    simp only [exec, execRra, execRla, execMovA, execSwapa] at h
    exact .data (operandToAcc_effect h fun _ _ => unflagged_fits _ _)
  | rr | rl | swap | clrBit | setBit =>
    simp only [exec, execRr, execRl, execSwap, execClrBit, execSetBit] at h
    exact .data (operandToMem_effect h fun _ _ => unflagged_fits _ _)
  | rrca | rlca =>
    simp only [exec, execRrca, execRlca] at h
    exact .data (operandToAcc_effect h fun _ _ => FlagUpdate.fits_carryOnly _)
  | rrc | rlc =>
    simp only [exec, execRrc, execRlc] at h
    exact .data (operandToMem_effect h fun _ _ => FlagUpdate.fits_carryOnly _)
  | movM | clr | set =>
    simp only [exec, execMovM, execClr, execSet] at h
    exact .data (valueToMem_effect h fun _ => unflagged_fits _ _)
  | sz | szBit | snzBit =>
    simp only [exec, execSz, execSzBit, execSnzBit] at h
    exact .data (skipOnOperand_effect h)
  | sza | siza | sdza =>
    simp only [exec, execSza, execSiza, execSdza] at h
    exact .data (skipToAcc_effect h)
  | siz | sdz =>
    simp only [exec, execSiz, execSdz] at h
    exact .data (skipToMem_effect h)
  | tabrdc => exact execTabrdc_effect h
  | tabrdl => exact tableRead_effect h (.inr rfl)
  | addI | subI =>
    simp only [exec, execAddI, execSubI] at h
    exact .data (immediateToAcc_effect h fun _ => FlagUpdate.fits_arithmetic _)
  | andI | orI | xorI =>
    simp only [exec, execAndI, execOrI, execXorI] at h
    exact .data (immediateToAcc_effect h fun _ => zeroFlagged_fits _)
  | movI =>
    simp only [exec, execMovI] at h
    exact .data (immediateToAcc_effect h fun _ => unflagged_fits _ _)
  | retA => exact execRetA_effect h
  | jmp a => cases h; exact .data (.jmp a)
  | call => exact execCall_effect h

/-! ## What every effect keeps -/

theorem DataEffect.keepsControl {i : Instr} {s t : State} (d : DataEffect i s t) :
    KeepsControl s t := by
  cases d with
  | toAcc o => exact (s.startInstr_keepsControl 1).trans (State.putAcc_keepsControl o _)
  | toMem o _ _ put => exact (s.startInstr_keepsControl 1).trans (State.putLoc_keepsControl put)
  | skip b => exact (s.startInstr_keepsControl 1).trans (State.skipIf_keepsControl b _)
  | skipAcc v b =>
    exact ((s.startInstr_keepsControl 1).trans (State.setAcc_keepsControl v _)).trans
      (State.skipIf_keepsControl b _)
  | skipMem v b _ _ write =>
    exact ((s.startInstr_keepsControl 1).trans (State.writeLoc_keepsControl write)).trans
      (State.skipIf_keepsControl b _)
  | nop => exact s.startInstr_keepsControl 1
  | jmp a => exact (s.startInstr_keepsControl 2).trans (State.jumpTo_keepsControl a _)

/-- R26: outside a write of STATUS, an instruction keeps the flags that are not of its row. -/
theorem DataEffect.keepsFlagsBut {i : Instr} {s t : State} (d : DataEffect i s t)
    (hd : ∀ m, memoryDestination i = some m → s.resolve m ≠ .status) :
    KeepsFlagsBut (flagRow i) s t := by
  have skipped (u : State) (b : Bool) : KeepsFlagsBut (flagRow i) u (u.skipIf b) :=
    .of_eq _ (by simp) (by simp) (by simp) (by simp)
  have started : KeepsFlagsBut (flagRow i) s (s.startInstr 1) := .of_eq _ rfl rfl rfl rfl
  have accSet (v : Byte) : KeepsFlagsBut (flagRow i) s ((s.startInstr 1).setAcc v) :=
    .of_eq _ rfl rfl rfl rfl
  cases d with
  | toAcc o _ fits => exact (accSet o.value).trans (fits.keepsFlagsBut _)
  | toMem o traits fits put =>
    obtain ⟨u, write, rfl⟩ := State.putLoc_next put
    have notStatus := hd _ traits.dest
    rw [if_neg notStatus]
    exact (started.trans (State.writeLoc_keepsFlags _ notStatus write)).trans (fits.keepsFlagsBut u)
  | skip b => exact started.trans (skipped _ b)
  | skipAcc v b => exact (accSet v).trans (skipped _ b)
  | skipMem v b traits _ write =>
    exact (started.trans (State.writeLoc_keepsFlags _ (hd _ traits.dest) write)).trans (skipped _ b)
  | nop => exact started
  | jmp a => exact .of_eq _ rfl rfl rfl rfl

theorem Effect.keepsFlagsBut {i : Instr} {s t : State} (e : Effect i s t)
    (hd : ∀ m, memoryDestination i = some m → s.resolve m ≠ .status) :
    KeepsFlagsBut (flagRow i) s t := by
  cases e with
  | data d => exact d.keepsFlagsBut hd
  | table lo hi traits _ write =>
    obtain ⟨c, ac, z, ov⟩ := State.writeLoc_keepsFlags (flagRow i) (hd _ traits.dest) write
    exact ⟨c, ac, z, ov⟩
  | clears => exact .of_eq _ (by simp) (by simp) (by simp) (by simp)
  | call | ret | retA | reti | marks | halt => exact .of_eq _ rfl rfl rfl rfl

/-- R36, R9: program memory and the arguments stay. -/
theorem Effect.keepsProgram {i : Instr} {s t : State} (e : Effect i s t) :
    t.rom = s.rom ∧ t.params = s.params := by
  cases e with
  | data d => exact ⟨d.keepsControl.rom, d.keepsControl.params⟩
  | table _ _ _ _ write =>
    have k := State.writeLoc_keepsControl write
    exact ⟨k.rom, k.params⟩
  | clears => simp
  | call | ret | retA | reti | marks | halt => exact ⟨rfl, rfl⟩

/-- R25: outside the clear instructions and HALT, TO and PDF stay. -/
theorem Effect.keepsPowerFlags {i : Instr} {s t : State} (e : Effect i s t)
    (notPower : flagRow i ≠ .power) : t.tout = s.tout ∧ t.pdf = s.pdf := by
  cases e with
  | data d => exact ⟨d.keepsControl.tout, d.keepsControl.pdf⟩
  | table _ _ _ _ write =>
    have k := State.writeLoc_keepsControl write
    exact ⟨k.tout, k.pdf⟩
  | call | ret | retA | reti => exact ⟨rfl, rfl⟩
  | marks _ _ power | clears _ _ power => exact absurd power notPower
  | halt => exact absurd rfl notPower

/-- No instruction sets TO (R25). -/
theorem Effect.tout_of_tout {i : Instr} {s t : State} (e : Effect i s t) (h : t.tout = true) :
    s.tout = true := by
  cases e with
  | data d => exact d.keepsControl.tout ▸ h
  | table _ _ _ _ write => exact (State.writeLoc_keepsControl write).tout ▸ h
  | call | ret | retA | reti | marks => exact h
  | clears => simp at h
  | halt => cases h

end Sys2Proof.Machine
end

section
/-!
SUPPORT. What an event and a step leave, said once, and the map of the data memory.
-/
namespace Sys2Proof.Machine

/-! ## Events -/

/-- Everything an event that acts can do (R263). -/
theorem takeEvent_next {e : Event} {s t : State} (h : takeEvent e s = .next t) :
    (e = .powerOn ∧ t = s.powerOnReset) ∨
    ((e = .resLow ∨ e = .lowVoltage ∧ s.params.options.lvrEnable = true) ∧ t = s.resReset) ∨
    (e = .wdtTimeout ∧ t = s.timeoutReset) ∨ (e = .wakeA ∧ t = s.wakeUp) := by
  cases e with
  | powerOn => cases h; exact .inl ⟨rfl, rfl⟩
  | lowVoltage =>
    simp only [takeEvent] at h
    split at h
    · cases h; exact .inr (.inl ⟨.inr ⟨rfl, ‹_›⟩, rfl⟩)
    · cases h
  | resLow => cases h; exact .inr (.inl ⟨.inl rfl, rfl⟩)
  | wdtTimeout => cases h; exact .inr (.inr (.inl ⟨rfl, rfl⟩))
  | wakeA => cases h; exact .inr (.inr (.inr ⟨rfl, rfl⟩))

@[simp] theorem State.powerOnReset_tout (s : State) : s.powerOnReset.tout = false := rfl
@[simp] theorem State.powerOnReset_rom (s : State) : s.powerOnReset.rom = s.rom := rfl
@[simp] theorem State.powerOnReset_params (s : State) : s.powerOnReset.params = s.params := rfl
@[simp] theorem State.resReset_tout (s : State) :
    s.resReset.tout = if s.mode = .halt then false else s.tout := rfl
@[simp] theorem State.resReset_rom (s : State) : s.resReset.rom = s.rom := by
  simp [State.resReset]
@[simp] theorem State.resReset_params (s : State) : s.resReset.params = s.params := by
  simp [State.resReset]
@[simp] theorem State.timeoutReset_rom (s : State) : s.timeoutReset.rom = s.rom := by
  unfold State.timeoutReset; split <;> simp
@[simp] theorem State.timeoutReset_params (s : State) : s.timeoutReset.params = s.params := by
  unfold State.timeoutReset; split <;> simp

theorem takeEvent_keepsProgram {e : Event} {s t : State} (h : takeEvent e s = .next t) :
    t.rom = s.rom ∧ t.params = s.params := by
  rcases takeEvent_next h with ⟨-, rfl⟩ | ⟨-, rfl⟩ | ⟨-, rfl⟩ | ⟨-, rfl⟩ <;> simp

/-- No event sets TO but the time-out (R272, R301). -/
theorem takeEvent_tout_of_tout {e : Event} {s t : State} (h : takeEvent e s = .next t)
    (ht : t.tout = true) : s.tout = true ∨ e = .wdtTimeout := by
  rcases takeEvent_next h with ⟨-, rfl⟩ | ⟨-, rfl⟩ | ⟨he, -⟩ | ⟨-, rfl⟩
  · simp at ht
  · simp only [State.resReset_tout] at ht
    split at ht
    · cases ht
    · exact .inl ht
  · exact .inr he
  · exact .inl ht

/-! ## The boundary before a step -/

@[simp] theorem State.atBoundary_tout (s : State) : s.atBoundary.tout = s.tout := rfl
@[simp] theorem State.atBoundary_mode (s : State) : s.atBoundary.mode = s.mode := rfl
@[simp] theorem State.atBoundary_rom (s : State) : s.atBoundary.rom = s.rom := rfl
@[simp] theorem State.atBoundary_params (s : State) : s.atBoundary.params = s.params := rfl
@[simp] theorem State.atBoundary_fetch (s : State) : s.atBoundary.fetch = s.fetch := rfl

/-- With no tick the boundary changes nothing. -/
theorem State.atBoundary_of_no_ticks {s : State} (h : s.input.oscTicks = 0) : s.atBoundary = s := by
  simp [State.atBoundary, State.countOscTicks, h]

/-! ## A step -/

/-- With no event due, a step is the core's part (R264). -/
theorem step_of_not_due {s : State} (h : s.dueEvent = none) :
    step s = onNext (coreStep s.atBoundary) State.passTime := by
  have hp : (s.countOscTicks s.input.oscTicks).pendingEvent s.input = none := h
  simp only [step, hp]
  rfl

/-- In RUN mode the core executes the word it fetches (R23). -/
theorem coreStep_of_fetch {s : State} {i : Instr} (hm : s.mode = .run) (hf : s.fetch = some i) :
    coreStep s = exec i s := by
  simp only [coreStep, hm, hf]

/-- With no reset asked for, no time-out due and the core running, no event acts (R264). -/
theorem State.pendingEvent_of_running {inp : Input} {s : State} (hm : s.mode = .run)
    (hp : inp.powerOn = false) (hl : inp.lowVoltage = false) (hr : inp.resLow = false)
    (hw : s.wdtDue inp.wdtFire = false) : s.pendingEvent inp = none := by
  simp [State.pendingEvent, State.wakes, hm, hp, hl, hr, hw]

/-- A cleared watchdog brings no time-out unless the environment fires it (R270). -/
theorem State.wdtDue_of_cleared {s : State} (h : s.wdt = 0) : s.wdtDue false = false := by
  have notLate : ¬ s.wdtLatest ≤ s.wdt := by
    rw [h]; unfold State.wdtLatest; split <;> omega
  simp [State.wdtDue, notLate]

/-! ## A placed word -/

@[simp] theorem State.withFetchWord_mode (s : State) (nbits w : Nat) :
    (s.withFetchWord nbits w).mode = .run := rfl
@[simp] theorem State.withFetchWord_wdt (s : State) (nbits w : Nat) :
    (s.withFetchWord nbits w).wdt = 0 := rfl
@[simp] theorem State.withFetchWord_input (s : State) (nbits w : Nat) :
    (s.withFetchWord nbits w).input = s.input.quiet := rfl

/-- The placed word is the one the program counter stands at. -/
theorem State.withFetchWord_fetch (s : State) (nbits w : Nat) :
    (s.withFetchWord nbits w).fetch = decode s.params.encoding (BitVec.ofNat 14 w) := by
  have read : (s.withFetchWord nbits w).progRead s.pc = BitVec.ofNat 14 w := by
    simp [State.progRead, State.withFetchWord, Memory.read_write]
  exact congrArg (decode s.params.encoding) read

theorem State.withFetchWord_atBoundary (s : State) (nbits w : Nat) :
    (s.withFetchWord nbits w).atBoundary = s.withFetchWord nbits w :=
  State.atBoundary_of_no_ticks (by rw [s.withFetchWord_input]; rfl)

/-- The input of the next step is quiet and the watchdog cleared, so no event comes before the word. -/
theorem State.withFetchWord_dueEvent (s : State) (nbits w : Nat) :
    (s.withFetchWord nbits w).dueEvent = none := by
  unfold State.dueEvent
  rw [s.withFetchWord_atBoundary, s.withFetchWord_input]
  exact State.pendingEvent_of_running (s.withFetchWord_mode nbits w) rfl rfl rfl
    (State.wdtDue_of_cleared (s.withFetchWord_wdt nbits w))

/-! ## The map of the data memory (R61) -/

/-- The addresses below the RAM that the spec gives a location. -/
def namedAddresses : List DataAddr :=
  [0x00#7, 0x01#7, 0x05#7, 0x06#7, 0x07#7, 0x08#7, 0x09#7, 0x0A#7, 0x12#7, 0x13#7, 0x14#7, 0x15#7]

/-- Nothing is implemented at an address that has no name and is not in the RAM. -/
theorem Loc.direct_absent_iff (p : Params) (a : DataAddr) :
    (∃ b, Loc.direct p a = .absent b) ↔
      a ∉ namedAddresses ∧ ¬(gprBase p ≤ a.toNat ∧ a.toNat < gprBase p + 32) := by
  by_cases named : a ∈ namedAddresses
  · simp only [namedAddresses, List.mem_cons, List.not_mem_nil, or_false] at named
    rcases named with rfl | rfl | rfl | rfl | rfl | rfl | rfl | rfl | rfl | rfl | rfl | rfl <;>
      simp [Loc.direct, namedAddresses]
  · have unnamed := named
    simp only [namedAddresses, List.mem_cons, List.not_mem_nil, or_false, not_or] at unnamed
    by_cases ram : gprBase p ≤ a.toNat ∧ a.toNat < gprBase p + 32 <;>
      simp [Loc.direct, unnamed, named, ram]

/-- The gaps that the named addresses leave: 02H to 04H, 0BH to 11H, and from 16H on. -/
theorem not_mem_namedAddresses_iff : ∀ a : DataAddr, a ∉ namedAddresses ↔
    (0x02 ≤ a.toNat ∧ a.toNat ≤ 0x04 ∨ 0x0B ≤ a.toNat ∧ a.toNat ≤ 0x11 ∨ 0x16 ≤ a.toNat) := by
  decide

end Sys2Proof.Machine
end

section
/-!
The statements on the state: what a step runs and keeps, which locations there are, and which instruction
may change which part of the state.
-/
namespace Sys2Proof.Machine

/-- Settles O10: program memory and the arguments through an event, an idle step and an instruction. -/
theorem noStepChangesProgramOrOptions : Obligations.NoStepChangesProgramOrOptions := by
  intro s t h
  rcases step_next h with ⟨e, u, -, he, rfl⟩ | ⟨-, -, rfl⟩ | ⟨i, u, -, -, -, hx, rfl⟩
  · simpa using takeEvent_keepsProgram he
  · simp
  · simpa using (exec_effect hx).keepsProgram

/-- Settles O11: the named addresses leave three gaps, and the RAM lies in the last. -/
theorem unimplementedAddressesAreThoseOutsideTheMap :
    Obligations.UnimplementedAddressesAreThoseOutsideTheMap := by
  intro s a
  rw [Loc.direct_absent_iff, not_mem_namedAddresses_iff,
    Nat.lt_succ_iff (n := gprBase s.params + 31)]

/-- Settles O46, by the effect of each instruction. -/
theorem instructionsWriteOnlyTheFlagsOfTheirRow :
    Obligations.InstructionsWriteOnlyTheFlagsOfTheirRow := by
  intro i s t h hd
  obtain ⟨c, ac, z, ov⟩ := (exec_effect h).keepsFlagsBut hd
  exact ⟨c, ac, z, ov, or_iff_not_imp_left.mpr (exec_effect h).keepsPowerFlags⟩

/-- Settles O47: TO and PDF are outside every data write, and of the events only the time-out sets TO. -/
theorem powerFlagsChangeOnlyByWatchdogAndHalt : Obligations.PowerFlagsChangeOnlyByWatchdogAndHalt := by
  refine ⟨fun i s t h => (exec_effect h).keepsPowerFlags, fun s t h ht => ?_⟩
  rcases step_next h with ⟨e, u, due, he, rfl⟩ | ⟨-, -, rfl⟩ | ⟨i, u, -, -, -, hx, rfl⟩
  · rcases takeEvent_tout_of_tout he ht with kept | rfl
    · exact .inl kept
    · exact .inr due
  · exact .inl ht
  · exact .inl ((exec_effect hx).tout_of_tout ht)

/-- Settles O48: what a data effect keeps, and each owner's own part. -/
theorem hiddenStateHasItsOwnWriters : Obligations.HiddenStateHasItsOwnWriters := by
  intro i s t h
  cases exec_effect h with
  | data d =>
    have k := d.keepsControl
    exact ⟨fun _ => k.stack, fun _ => k.sp, fun _ => k.emi, fun _ => k.tblh, fun _ => k.mode⟩
  | table _ _ _ reads write =>
    have k := State.writeLoc_keepsControl write
    exact ⟨fun _ => k.stack, fun _ => k.sp, fun _ => k.emi,
      fun others => absurd reads (not_or.mpr (others _)), fun _ => k.mode⟩
  | call a =>
    exact ⟨fun others => absurd rfl (others a), fun others => absurd rfl (others a 0#8).1,
      fun _ => rfl, fun _ => rfl, fun _ => rfl⟩
  | ret =>
    exact ⟨fun _ => rfl, fun others => absurd rfl (others 0#10 0#8).2.1,
      fun _ => rfl, fun _ => rfl, fun _ => rfl⟩
  | retA x =>
    exact ⟨fun _ => rfl, fun others => absurd rfl (others 0#10 x).2.2.1,
      fun _ => rfl, fun _ => rfl, fun _ => rfl⟩
  | reti =>
    exact ⟨fun _ => rfl, fun others => absurd rfl (others 0#10 0#8).2.2.2,
      fun other => absurd rfl other, fun _ => rfl, fun _ => rfl⟩
  | marks => exact ⟨fun _ => rfl, fun _ => rfl, fun _ => rfl, fun _ => rfl, fun _ => rfl⟩
  | clears => simp
  | halt => exact ⟨fun _ => rfl, fun _ => rfl, fun _ => rfl, fun _ => rfl, fun other => absurd rfl other⟩

/-- Settles O5: no event is due, so the core takes the step, and it runs the word it fetches. -/
theorem stepRunsTheDecodedInstruction : Obligations.StepRunsTheDecodedInstruction := by
  intro s i hm due hf
  rw [step_of_not_due due,
    coreStep_of_fetch (s.atBoundary_mode.trans hm) (s.atBoundary_fetch.trans hf)]

/-- Settles O7, from O5: no event is due before the placed word, and it is the word fetched. -/
theorem placedWordRunsNext : Obligations.PlacedWordRunsNext := by
  intro s nbits w i hw
  have run := stepRunsTheDecodedInstruction (s.withFetchWord nbits w) i (s.withFetchWord_mode nbits w)
    (s.withFetchWord_dueEvent nbits w) ((s.withFetchWord_fetch nbits w).trans hw)
  rwa [s.withFetchWord_atBoundary nbits w] at run

end Sys2Proof.Machine
end

section
/-!
SUPPORT. The data memory, address by address: which location an address names, what it reads as and what a
write of it leaves (20_memory.md R61 to R72).
-/
namespace Sys2Proof.Machine

/-! ## Locations (R61, R62) -/

/-- Through an MP that is not 00H, `[00H]` is the location MP names. -/
theorem State.resolve_zero_of_mp_ne {s : State} (h : s.mp ≠ 0x00#7) :
    s.resolve 0x00#7 = s.resolve s.mp := by
  simp [State.resolve, h]

/-- Through MP = 00H, `[00H]` names nothing beyond itself. -/
theorem State.resolve_zero_of_mp_eq {s : State} (h : s.mp = 0x00#7) : s.resolve 0x00#7 = .null := by
  simp [State.resolve, Loc.direct, h]

@[simp] theorem State.resolve_01H (s : State) : s.resolve 0x01#7 = .mp := rfl
@[simp] theorem State.resolve_05H (s : State) : s.resolve 0x05#7 = .acc := rfl
@[simp] theorem State.resolve_07H (s : State) : s.resolve 0x07#7 = .tblp := rfl
@[simp] theorem State.resolve_08H (s : State) : s.resolve 0x08#7 = .tblh := rfl
@[simp] theorem State.resolve_09H (s : State) : s.resolve 0x09#7 = .wdts := rfl
@[simp] theorem State.resolve_0AH (s : State) : s.resolve 0x0A#7 = .status := rfl
@[simp] theorem State.resolve_12H (s : State) : s.resolve 0x12#7 = .portA := rfl
@[simp] theorem State.resolve_13H (s : State) : s.resolve 0x13#7 = .portAControl := rfl
@[simp] theorem State.resolve_14H (s : State) : s.resolve 0x14#7 = .portB := rfl
@[simp] theorem State.resolve_15H (s : State) : s.resolve 0x15#7 = .portBControl := rfl

/-- No named address lies at 16H or above, where the RAM does (D4). -/
theorem toNat_lt_of_mem_namedAddresses : ∀ a ∈ namedAddresses, a.toNat < 0x16 := by
  decide

/-- A direct address in the RAM names its byte (R71). -/
theorem State.resolve_of_ram {s : State} {m : DataAddr} (lo : gprBase s.params ≤ m.toNat)
    (hi : m.toNat < gprBase s.params + 32) : s.resolve m = .gpr m.toNat := by
  have unnamed : m ∉ namedAddresses := fun named => by
    have below := toNat_lt_of_mem_namedAddresses m named
    unfold gprBase at lo
    omega
  simp only [namedAddresses, List.mem_cons, List.not_mem_nil, or_false, not_or] at unnamed
  simp [State.resolve, Loc.direct, unnamed, lo, hi]

/-! ## RAM (R71) -/

theorem State.ramRead_ramWrite (a k : Nat) (v : Byte) (s : State) :
    (s.ramWrite k v).ramRead a = if a = k then v else s.ramRead a := by
  simp only [State.ramRead, State.ramWrite, Memory.read_write]
  split <;> rfl

/-! ## STATUS (R69) -/

/-- STATUS as a number: bits 7 and 6 are 0. -/
theorem State.statusByte_toNat (s : State) :
    s.statusByte.toNat = s.c.toNat + 2 * s.ac.toNat + 4 * s.z.toNat + 8 * s.ov.toNat +
      16 * s.pdf.toNat + 32 * s.tout.toNat := by
  simp only [State.statusByte, toNat_joined, BitVec.toNat_ofBool, BitVec.toNat_ofNat]
  omega

/-- The flags in the order of the bits of STATUS. -/
theorem State.statusByte_bits (s : State) :
    s.statusByte.getLsbD 0 = s.c ∧ s.statusByte.getLsbD 1 = s.ac ∧ s.statusByte.getLsbD 2 = s.z ∧
      s.statusByte.getLsbD 3 = s.ov ∧ s.statusByte.getLsbD 4 = s.pdf := by
  simp only [State.statusByte, BitVec.getLsbD_append]
  simp

/-! ## Ports (R70, R276) -/

/-- A choice between two words, bit by bit by a third. -/
theorem getLsbD_select {w i : Nat} (hi : i < w) (sel x y : BitVec w) :
    ((sel &&& x) ||| (~~~sel &&& y)).getLsbD i =
      if sel.getLsbD i = true then x.getLsbD i else y.getLsbD i := by
  simp only [BitVec.getLsbD_or, BitVec.getLsbD_and, BitVec.getLsbD_not, hi, decide_true,
    Bool.true_and]
  cases sel.getLsbD i <;> simp

theorem State.padLevelA_getLsbD (s : State) {i : Nat} (hi : i < 8) : s.padLevelA.getLsbD i =
    (s.input.padA.getLsbD i || (s.params.options.pullHigh && !s.input.drivenA.getLsbD i)) := by
  unfold State.padLevelA
  cases s.params.options.pullHigh <;> simp [hi]

theorem State.padLevelB_getLsbD (s : State) {i : Nat} (hi : i < 3) : s.padLevelB.getLsbD i =
    (s.input.padB.getLsbD i || (s.params.options.pullHigh && !s.input.drivenB.getLsbD i)) := by
  unfold State.padLevelB
  cases s.params.options.pullHigh <;> simp [hi]

/-- A line of port A reads as its pad when an input, as its latch when an output. -/
theorem State.portReadA_getLsbD (s : State) {i : Nat} (hi : i < 8) : s.portReadA.getLsbD i =
    if s.pac.getLsbD i = true then
      s.input.padA.getLsbD i || (s.params.options.pullHigh && !s.input.drivenA.getLsbD i)
    else s.pa.getLsbD i := by
  rw [State.portReadA, getLsbD_select hi, s.padLevelA_getLsbD hi]

/-- The same of the three lines of port B. -/
theorem State.portReadB_getLsbD (s : State) {i : Nat} (hi : i < 3) : s.portReadB.getLsbD i =
    if s.pbc.getLsbD i = true then
      s.input.padB.getLsbD i || (s.params.options.pullHigh && !s.input.drivenB.getLsbD i)
    else s.pb.getLsbD i := by
  rw [State.portReadB, BitVec.getLsbD_append, if_pos hi, getLsbD_select hi, s.padLevelB_getLsbD hi]

/-- Port B has no line above PB2. -/
theorem State.portReadB_getLsbD_of_le (s : State) {i : Nat} (hi : 3 ≤ i) :
    s.portReadB.getLsbD i = false := by
  rw [State.portReadB, BitVec.getLsbD_append, if_neg (Nat.not_lt.mpr hi), BitVec.getLsbD_zero]

/-! ## Registers (R63, R68) -/

/-- The low seven bits of a byte (R63). -/
theorem setWidth_seven_eq (v : Byte) : v.setWidth 7 = BitVec.ofNat 7 (v.toNat % 128) := by
  apply BitVec.eq_of_toNat_eq; simp

/-- WS2..WS0 are the same in two bytes exactly when the bytes agree modulo 8. -/
theorem setWidth_three_eq_iff (v w : Byte) :
    v.setWidth 3 = w.setWidth 3 ↔ v.toNat % 8 = w.toNat % 8 := by
  rw [← BitVec.toNat_inj, BitVec.toNat_setWidth, BitVec.toNat_setWidth]

end Sys2Proof.Machine
end

section
/-!
The statements on the locations of the data memory: what each reads as, and what a write of it leaves.
-/
namespace Sys2Proof.Machine

/-- Settles O13: bit 7 stands above the seven of MP, and a write drops it. -/
theorem mpReadsBitSevenAsOne : Obligations.MpReadsBitSevenAsOne := by
  intro s v
  rw [s.resolve_01H]
  refine ⟨⟨1#1 ++ s.mp, rfl, ?_⟩, ?_⟩
  · rw [toNat_joined]; rfl
  · simp only [State.writeLoc, setWidth_seven_eq]

/-- Settles O14, by the number STATUS reads as. -/
theorem statusReadsSixFlagsAndTakesFour : Obligations.StatusReadsSixFlagsAndTakesFour := by
  intro s v
  rw [s.resolve_0AH]
  exact ⟨⟨s.statusByte, rfl, s.statusByte_toNat⟩, rfl⟩

/-- Settles O15, line by line. -/
theorem portsReadPadsOfInputsAndLatchesOfOutputs :
    Obligations.PortsReadPadsOfInputsAndLatchesOfOutputs := by
  intro s v
  rw [s.resolve_12H, s.resolve_14H]
  exact ⟨⟨s.portReadA, rfl, fun _ => s.portReadA_getLsbD⟩,
    ⟨s.portReadB, rfl, fun _ => s.portReadB_getLsbD, fun _ => s.portReadB_getLsbD_of_le⟩, rfl, rfl⟩

/-- Settles O16: the free bits of TBLH and PBC stand above those the register has. -/
theorem otherRegistersReadBackWhatWasWritten : Obligations.OtherRegistersReadBackWhatWasWritten := by
  intro s v
  have prescaler : (s.writeWdts v).wsChanged = true ↔
      s.wsChanged = true ∨ v.toNat % 8 ≠ s.wdts.toNat % 8 := by
    simp [← setWidth_three_eq_iff]
  rw [s.resolve_05H, s.resolve_07H, s.resolve_08H, s.resolve_09H, s.resolve_13H, s.resolve_15H]
  exact ⟨rfl, rfl, rfl, rfl, ⟨_, rfl, BitVec.setWidth_append_eq_right⟩, rfl, rfl,
    ⟨_, rfl, prescaler⟩, rfl, rfl, ⟨_, rfl, BitVec.setWidth_append_eq_right⟩, rfl⟩

/-- Settles O17: the write leaves the map as it was, so the address names the byte written. -/
theorem ramKeepsWhatIsWritten : Obligations.RamKeepsWhatIsWritten := by
  intro s m v _ lo hi
  have before : s.resolve m = .gpr m.toNat := State.resolve_of_ram lo hi
  have after : (s.ramWrite m.toNat v).resolve m = .gpr m.toNat := before
  refine ⟨s.ramWrite m.toNat v, by rw [before]; rfl, ?_, fun a ha => ?_, rfl⟩
  · rw [after, State.readLoc, State.ramRead_ramWrite, if_pos rfl]
  · rw [State.ramRead_ramWrite, if_neg ha]

/-- Settles O12, by the location `[00H]` names in either case. -/
theorem locationZeroGoesThroughMp : Obligations.LocationZeroGoesThroughMp := by
  refine fun s v => ⟨State.resolve_zero_of_mp_ne, fun h => ?_⟩
  rw [State.resolve_zero_of_mp_eq h]
  exact ⟨rfl, rfl⟩

end Sys2Proof.Machine
end

section
/-!
SUPPORT. What an instruction with an `[m]` is made of (`OperandShape`), and what each shape answers where the
operand or the write of it answers: rules over all of these instructions are a case split on the shape.
-/
namespace Sys2Proof.Machine

/-! ## The start of an instruction -/

theorem State.startInstr_eq (n : Nat) (s : State) :
    s.startInstr n = { s with pc := s.pc + 1#10, wdt := s.clocked n } :=
  congrArg (fun w => { s with pc := s.pc + 1#10, wdt := w }) (s.countCycles_wdt n)

/-- Cycles add up. -/
theorem State.clocked_startInstr (n k : Nat) (s : State) :
    (s.startInstr n).clocked k = s.clocked (n + k) := by
  rw [s.startInstr_eq]
  unfold State.clocked
  split <;> simp only [Nat.add_assoc]

/-- An operand reads as something exactly where something is implemented (R72). -/
theorem State.operandByte_isSome {m : DataAddr} {s : State} (h : ∀ a, s.resolve m ≠ .absent a) :
    ∃ v, s.operandByte m = some v :=
  Option.ne_none_iff_exists'.mp fun none => by
    obtain ⟨a, ha⟩ := State.readLoc_eq_none.mp none
    exact h a ha

/-! ## A result put at a location -/

/-- A refused write refuses the whole. -/
theorem State.putLoc_of_refused {l : Loc} {o : AluOut} {s : State} {r : Refusal}
    (h : s.writeLoc l o.value = .refused r) : s.putLoc l o = .refused r := by
  rw [State.putLoc, h, onNext_refused]

/-- Outside STATUS the flags of the result follow the write (R124). -/
theorem State.putLoc_of_next {l : Loc} {o : AluOut} {s u : State} (hl : l ≠ .status)
    (h : s.writeLoc l o.value = .next u) : s.putLoc l o = .next (u.applyFlags o.flags) := by
  rw [State.putLoc, h, if_neg hl, onNext_next]

/-! ## The shapes, by what their operand answers -/

section answers
variable {m : DataAddr} {s : State}

/-- An instruction goes on with the location its `[m]` names and the byte that is there. -/
theorem withOperand_of_operand {v : Byte} (k : Loc → Byte → Result) (h : s.operandByte m = some v) :
    withOperand m (s.startInstr 1) k = k (s.resolve m) v :=
  withOperand_of_some k h

theorem operandToMem_of_operand {v : Byte} (f : State → Byte → AluOut) (h : s.operandByte m = some v) :
    operandToMem f m s = (s.startInstr 1).putLoc (s.resolve m) (f (s.startInstr 1) v) := by
  simp only [operandToMem]
  exact withOperand_of_operand _ h

/-- An instruction reads STATUS as it stood before it (R69). -/
theorem operandToMem_status (f : State → Byte → AluOut) (h : s.resolve m = .status) :
    operandToMem f m s =
      (s.startInstr 1).putLoc .status (f (s.startInstr 1) s.statusByte) := by
  have read : s.operandByte m = some s.statusByte := by rw [State.operandByte, h]; rfl
  rw [operandToMem_of_operand f read, h]

theorem valueToMem_eq (f : State → AluOut) :
    valueToMem f m s = (s.startInstr 1).putLoc (s.resolve m) (f (s.startInstr 1)) := rfl

/-- SIZ and SDZ are refused on PCL (D12). -/
theorem skipToMem_pcl (f : Byte → Byte) (h : s.resolve m = .pcl) :
    skipToMem f m s = .refused .skipWithPclDestination := by
  obtain ⟨v, read⟩ := State.operandByte_isSome (s := s) (m := m) (by simp [h])
  simp only [skipToMem]
  exact (withOperand_of_operand _ read).trans (if_pos h)

/-- A skip with destination `[m]` elsewhere writes, then skips on a zero result. -/
theorem skipToMem_of_operand {v : Byte} (f : Byte → Byte) (notPcl : s.resolve m ≠ .pcl)
    (h : s.operandByte m = some v) : skipToMem f m s =
      onNext ((s.startInstr 1).writeLoc (s.resolve m) (f v)) (State.skipIf (f v == 0#8)) := by
  simp only [skipToMem]
  exact (withOperand_of_operand _ h).trans (if_neg notPcl)

theorem tableRead_of_refused {ta : ProgAddr} {t : State} {r : Refusal}
    (h : t.writeLoc (t.resolve m) ((t.progRead ta).setWidth 8) = .refused r) :
    tableRead ta m t = .refused r := by
  simp only [tableRead, h, onNext_refused]

theorem tableRead_of_next {ta : ProgAddr} {t u : State}
    (h : t.writeLoc (t.resolve m) ((t.progRead ta).setWidth 8) = .next u) :
    tableRead ta m t = .next { u with tblh := (t.progRead ta).extractLsb' 8 6 } := by
  simp only [tableRead, h, onNext_next]

/-- At a page end TABRDC is refused (D7). -/
theorem execTabrdc_of_pageEnd (h : s.standsAtPageEnd = true) :
    execTabrdc m s = .refused .tableReadAtPageEnd := by
  simp only [execTabrdc, State.atPageEnd_startInstr, h, if_true]

/-- Elsewhere it reads the word of its own page. -/
theorem execTabrdc_of_not_pageEnd (h : s.standsAtPageEnd = false) : execTabrdc m s =
    tableRead ((s.startInstr 2).pc.extractLsb' 8 2 ++ s.tblp) m (s.startInstr 2) := by
  simp only [execTabrdc, State.atPageEnd_startInstr, h, Bool.false_eq_true, if_false,
    State.startInstr_tblp]

end answers

/-! ## The shape of every instruction with an `[m]` -/

/-- What an instruction with an `[m]` is made of, where it stands in `s`, and its place in the tables of
destinations, skips and cycles where it writes `[m]`. -/
inductive OperandShape (i : Instr) (m : DataAddr) (s : State) : Prop
  | toAcc (f : State → Byte → AluOut) (reads : memoryDestination i = none)
      (meaning : exec i s = operandToAcc f m s)
  | skip (test : Byte → Bool) (reads : memoryDestination i = none)
      (meaning : exec i s = skipOnOperand test m s)
  | skipAcc (f : Byte → Byte) (reads : memoryDestination i = none)
      (meaning : exec i s = skipToAcc f m s)
  | toMem (f : State → Byte → AluOut) (traits : Traits i (some m) false 1)
      (meaning : exec i s = operandToMem f m s)
  | value (f : State → AluOut) (traits : Traits i (some m) false 1)
      (meaning : exec i s = valueToMem f m s)
  | skipMem (f : Byte → Byte) (which : i = .siz m ∨ i = .sdz m) (meaning : exec i s = skipToMem f m s)
  | table (ta : ProgAddr) (traits : Traits i (some m) false 2)
      (meaning : exec i s = tableRead ta m (s.startInstr 2))

/-- Every instruction with an `[m]` has a shape; TABRDC only away from a page end (D7). -/
theorem operandShape {i : Instr} {m : DataAddr} {s : State} (h : dataOperand i = some m)
    (page : i = .tabrdc m → s.standsAtPageEnd = false) : OperandShape i m s := by
  cases i with
  | nop | clrWdt | clrWdt1 | clrWdt2 | halt | ret | reti | addI | subI | andI | orI | xorI | movI
  | retA | jmp | call => cases h
  | addA | adcA | subA | sbcA | andA | orA | xorA | cpla | inca | deca =>
    cases h
    exact .toAcc _ rfl (by
      simp only [exec, execAddA, execAdcA, execSubA, execSbcA, execAndA, execOrA, execXorA, execCpla,
        execInca, execDeca]
      rfl)
  | rra | rrca | rla | rlca | movA | swapa =>
    cases h
    exact .toAcc _ rfl (by
      simp only [exec, execRra, execRrca, execRla, execRlca, execMovA, execSwapa]
      rfl)
  | sz | szBit | snzBit =>
    cases h
    exact .skip _ rfl (by simp only [exec, execSz, execSzBit, execSnzBit]; rfl)
  | sza | siza | sdza =>
    cases h
    exact .skipAcc _ rfl (by simp only [exec, execSza, execSiza, execSdza]; rfl)
  | addM | adcM | subM | sbcM | andM | orM | xorM | cpl | inc | dec =>
    cases h
    exact .toMem _ ⟨rfl, rfl, rfl⟩ (by
      simp only [exec, execAddM, execAdcM, execSubM, execSbcM, execAndM, execOrM, execXorM, execCpl,
        execInc, execDec]
      rfl)
  | rr | rrc | rl | rlc | swap | clrBit | setBit =>
    cases h
    exact .toMem _ ⟨rfl, rfl, rfl⟩ (by
      simp only [exec, execRr, execRrc, execRl, execRlc, execSwap, execClrBit, execSetBit]
      rfl)
  | daa | movM | clr | set =>
    cases h
    exact .value _ ⟨rfl, rfl, rfl⟩ (by simp only [exec, execDaa, execMovM, execClr, execSet]; rfl)
  | siz => cases h; exact .skipMem _ (.inl rfl) (by simp only [exec, execSiz]; rfl)
  | sdz => cases h; exact .skipMem _ (.inr rfl) (by simp only [exec, execSdz]; rfl)
  | tabrdc => cases h; exact .table _ ⟨rfl, rfl, rfl⟩ (execTabrdc_of_not_pageEnd (page rfl))
  | tabrdl => cases h; exact .table _ ⟨rfl, rfl, rfl⟩ rfl

/-- The destination `[m]` of an instruction is the one `[m]` it has (R91). -/
theorem dataOperand_of_memoryDestination {i : Instr} {m : DataAddr}
    (h : memoryDestination i = some m) : dataOperand i = some m := by
  cases i with
  | addM | adcM | subM | sbcM | daa | andM | orM | xorM | cpl | inc | dec | rr | rrc | rl | rlc | movM
  | siz | sdz | tabrdc | tabrdl | clr | set | swap | clrBit | setBit => exact h
  | _ => cases h

/-- R72, D5: whatever the shape, an operand that is not there is refused. -/
theorem OperandShape.refused_of_absent {i : Instr} {m a : DataAddr} {s : State}
    (shape : OperandShape i m s) (h : s.resolve m = .absent a) :
    exec i s = .refused (.unimplementedAddress a) := by
  have read (k : Loc → Byte → Result) :
      withOperand m (s.startInstr 1) k = .refused (.unimplementedAddress a) :=
    withOperand_of_absent k h
  have write (n : Nat) (v : Byte) :
      (s.startInstr n).writeLoc (s.resolve m) v = .refused (.unimplementedAddress a) := by rw [h]; rfl
  cases shape with
  | toAcc _ _ meaning | skip _ _ meaning | skipAcc _ _ meaning | toMem _ _ meaning
  | skipMem _ _ meaning =>
    rw [meaning]
    simp only [operandToAcc, skipOnOperand, skipToAcc, operandToMem, skipToMem]
    exact read _
  | value _ _ meaning => exact meaning.trans (State.putLoc_of_refused (write 1 _))
  | table _ _ meaning => exact meaning.trans (tableRead_of_refused (write 2 _))

/-- Where something is implemented and no write of it has a meaning, an instruction that writes `[m]` is
refused as the write is; SIZ and SDZ on PCL have a refusal of their own. -/
theorem OperandShape.refused_of_write {i : Instr} {m : DataAddr} {s : State} {r : Refusal}
    (shape : OperandShape i m s) (dest : memoryDestination i = some m)
    (there : ∀ a, s.resolve m ≠ .absent a)
    (pcl : i = .siz m ∨ i = .sdz m → s.resolve m ≠ .pcl)
    (write : ∀ (n : Nat) (v : Byte), (s.startInstr n).writeLoc (s.resolve m) v = .refused r) :
    exec i s = .refused r := by
  obtain ⟨v, read⟩ := State.operandByte_isSome there
  cases shape with
  | toAcc _ reads | skip _ reads | skipAcc _ reads => rw [reads] at dest; cases dest
  | toMem f _ meaning =>
    rw [meaning, operandToMem_of_operand f read, State.putLoc_of_refused (write 1 _)]
  | value f _ meaning => rw [meaning, valueToMem_eq, State.putLoc_of_refused (write 1 _)]
  | skipMem f which meaning =>
    rw [meaning, skipToMem_of_operand f (pcl which) read, write, onNext_refused]
  | table _ _ meaning => exact meaning.trans (tableRead_of_refused (write 2 _))

end Sys2Proof.Machine
end

section
/-!
The statements on refused operands and writes.
-/
namespace Sys2Proof.Machine

/-- Settles O18, by the shape of the instruction. -/
theorem absentOperandsAndTblhWritesAreRefused : Obligations.AbsentOperandsAndTblhWritesAreRefused := by
  refine fun s i m page => ⟨fun a operand absent => ?_, fun dest tblh => ?_⟩
  · exact (operandShape operand page).refused_of_absent absent
  · exact (operandShape (dataOperand_of_memoryDestination dest) page).refused_of_write dest
      (by simp [tblh]) (by simp [tblh]) (by intro n v; rw [tblh]; rfl)

/-- Settles O19: at a page end no byte can be written to PCL. -/
theorem pageEndAndSkipOnPclAreRefused : Obligations.PageEndAndSkipOnPclAreRefused := by
  refine fun s i m => ⟨fun pcl => ⟨skipToMem_pcl _ pcl, skipToMem_pcl _ pcl⟩, fun pageEnd =>
    ⟨execTabrdc_of_pageEnd pageEnd, fun pcl dest notSiz notSdz notTabrdc => ?_⟩⟩
  have write (n : Nat) (v : Byte) :
      (s.startInstr n).writeLoc (s.resolve m) v = .refused .pclWriteAtPageEnd := by
    rw [pcl, State.writeLoc, State.atPageEnd_startInstr, if_pos pageEnd]
  exact (operandShape (dataOperand_of_memoryDestination dest) (absurd · notTabrdc)).refused_of_write
    dest (by simp [pcl]) (fun skips => absurd skips (not_or.mpr ⟨notSiz, notSdz⟩)) write

end Sys2Proof.Machine
end

section
/-!
SUPPORT. The adder in whole numbers (R110), a rotate through carry bit by bit (R168), a flag-affecting
result at STATUS (D11) and a write of PCL (R65).
-/
namespace Sys2Proof.Machine

/-! ## The adder (R110) -/

theorem add8_value (a b : Byte) (k : Bool) :
    (add8 a b k).value = a + b + BitVec.ofNat 8 k.toNat := by
  apply BitVec.eq_of_toNat_eq
  simp [add8]

theorem add8_value_toNat (a b : Byte) (k : Bool) :
    (add8 a b k).value.toNat = (a.toNat + b.toNat + k.toNat) % 256 := by
  simp [add8]

/-- The carries into and out of bit 7 differ exactly when the sum leaves the range of a signed byte. -/
theorem add8_overflow (a b : Byte) (k : Bool) :
    (decide (128 ≤ a.toNat % 128 + b.toNat % 128 + k.toNat) ^^
      decide (256 ≤ a.toNat + b.toNat + k.toNat)) =
    decide ((add8 a b k).value.toInt ≠ a.toInt + b.toInt + k.toNat) := by
  have ha := a.isLt
  have hb := b.isLt
  have hk := Bool.toNat_le k
  rw [Bool.eq_iff_iff]
  simp only [bne_iff_ne, ne_eq, decide_eq_decide, decide_eq_true_eq, BitVec.toInt_eq_toNat_cond,
    add8_value_toNat]
  omega

/-- The flags of an addition, in whole numbers. -/
theorem add8_flags (a b : Byte) (k : Bool) :
    (add8 a b k).flags =
      { c := some (decide (256 ≤ a.toNat + b.toNat + k.toNat))
        ac := some (decide (16 ≤ a.toNat % 16 + b.toNat % 16 + k.toNat))
        z := some (decide ((add8 a b k).value = 0#8))
        ov := some (decide ((add8 a b k).value.toInt ≠ a.toInt + b.toInt + k.toNat)) } := by
  rw [← add8_overflow]
  rfl

/-- An addition of ACC leaves its flags in any state. -/
theorem State.applyFlags_add8 (s u : State) (v : Byte) (k : Bool) :
    u.applyFlags (add8 s.acc v k).flags = (s.afterAdd v k).copyFlags u := by
  rw [add8_flags, add8_value]
  rfl

/-! ## Rotates through carry (R168) -/

theorem rorc_value_getLsbD (v : Byte) (c : Bool) {i : Nat} (hi : i < 7) :
    (rorc v c).value.getLsbD i = v.getLsbD (i + 1) := by
  rw [rorc, BitVec.getLsbD_append, if_pos hi, BitVec.getLsbD_extractLsb', decide_eq_true hi,
    Bool.true_and, Nat.add_comm]

theorem rolc_value_getLsbD (v : Byte) (c : Bool) {i : Nat} (hi : i < 7) :
    (rolc v c).value.getLsbD (i + 1) = v.getLsbD i := by
  rw [rolc, BitVec.getLsbD_append, if_neg (by omega), BitVec.getLsbD_extractLsb', Nat.add_sub_cancel,
    decide_eq_true hi, Bool.true_and, Nat.zero_add]

theorem rorc_flags (v : Byte) (c : Bool) : (rorc v c).flags = { c := some (v.getLsbD 0) } := rfl
theorem rolc_flags (v : Byte) (c : Bool) : (rolc v c).flags = { c := some (v.getLsbD 7) } := rfl

/-! ## A result at STATUS (R69, D11) -/

theorem FlagUpdate.raced_carryOnly (n : Nat) (b : Bool) :
    ({ c := some b } : FlagUpdate).raced n = { c := some (Config.statusRace .c n) } := rfl

/-- The flags of a result put at STATUS are free; the other ones of the four are bits of its byte. -/
theorem State.putLoc_status (o : AluOut) (s : State) :
    (s.startInstr 1).putLoc .status o = .next
      { s with pc := s.pc + 1#10, wdt := s.clocked 1
               c := (o.flags.raced s.drawIndex).c.getD (o.value.getLsbD 0)
               ac := (o.flags.raced s.drawIndex).ac.getD (o.value.getLsbD 1)
               z := (o.flags.raced s.drawIndex).z.getD (o.value.getLsbD 2)
               ov := (o.flags.raced s.drawIndex).ov.getD (o.value.getLsbD 3) } := by
  rw [s.startInstr_eq]
  rfl

/-! ## A write of PCL (R65, D6) -/

/-- PCL shows the low byte of the next address (D6). -/
theorem State.operandByte_pcl {m : DataAddr} {s : State} (pcl : s.resolve m = .pcl) :
    s.operandByte m = some (s.pc.setWidth 8 + 1#8) := by
  rw [State.operandByte, pcl, State.readLoc, State.startInstr_pc, BitVec.setWidth_add _ _ (by omega)]
  rfl

/-- Away from a page end the next address is in the page of this one. -/
theorem page_of_next {a : ProgAddr} (notEnd : a.setWidth 8 ≠ 0xFF#8) (r : Byte) :
    ((a + 1#10).extractLsb' 8 2 ++ r : BitVec (2 + 8)) = inPageOf a r := by
  have ha := a.isLt
  have hr := r.isLt
  have low : a.toNat % 256 ≠ 255 := fun h => notEnd (BitVec.eq_of_toNat_eq (by simpa using h))
  apply BitVec.eq_of_toNat_eq
  rw [toNat_joined, BitVec.extractLsb'_toNat, Nat.shiftRight_eq_div_pow, BitVec.toNat_add, inPageOf,
    BitVec.toNat_ofNat, BitVec.toNat_ofNat]
  omega

/-- Away from a page end a write of PCL goes on within the page, in one cycle more. -/
theorem State.writeLoc_pcl {s : State} (notEnd : s.standsAtPageEnd = false) (n : Nat) (r : Byte) :
    (s.startInstr n).writeLoc .pcl r =
      .next { s with pc := inPageOf s.pc r, wdt := s.clocked (n + 1) } := by
  have page := page_of_next (by simpa [State.standsAtPageEnd] using notEnd) r
  have load : (s.startInstr n).loadPcl r =
      { s with pc := inPageOf s.pc r, wdt := s.clocked (n + 1) } := by
    rw [← page, ← s.clocked_startInstr, ← State.countCycles_wdt]
    rfl
  rw [State.writeLoc, State.atPageEnd_startInstr, notEnd, if_neg Bool.false_ne_true, load]

/-- A result put at PCL away from a page end: the jump, then the flags. -/
theorem State.putLoc_pcl {s : State} (notEnd : s.standsAtPageEnd = false) (o : AluOut) :
    (s.startInstr 1).putLoc .pcl o =
      .next ((s.transferTo (inPageOf s.pc o.value)).applyFlags o.flags) :=
  State.putLoc_of_next (by decide) (State.writeLoc_pcl notEnd 1 o.value)

/-- Away from a page end an instruction that writes `[m]` goes to some byte of its page when `[m]` is PCL,
but for SIZ and SDZ (R214, D12). -/
theorem OperandShape.jumps_of_pcl {i : Instr} {m : DataAddr} {s : State} (shape : OperandShape i m s)
    (dest : memoryDestination i = some m) (notSiz : i ≠ .siz m) (notSdz : i ≠ .sdz m)
    (pcl : s.resolve m = .pcl) (notEnd : s.standsAtPageEnd = false) :
    ∃ (t : State) (r : Byte), exec i s = .next t ∧
      t = { s with pc := inPageOf s.pc r, wdt := s.clocked (baseCycles i + 1), c := t.c, ac := t.ac
                   z := t.z, ov := t.ov, tblh := t.tblh } := by
  cases shape with
  | toAcc _ reads | skip _ reads | skipAcc _ reads => rw [reads] at dest; cases dest
  | toMem f traits meaning =>
    rw [meaning, operandToMem_of_operand f (State.operandByte_pcl pcl), pcl, State.putLoc_pcl notEnd,
      traits.cycles]
    exact ⟨_, _, rfl, rfl⟩
  | value f traits meaning =>
    rw [meaning, valueToMem_eq, pcl, State.putLoc_pcl notEnd, traits.cycles]
    exact ⟨_, _, rfl, rfl⟩
  | skipMem _ which => exact absurd which (not_or.mpr ⟨notSiz, notSdz⟩)
  | table ta traits meaning =>
    have write := State.writeLoc_pcl notEnd 2 (((s.startInstr 2).progRead ta).setWidth 8)
    rw [← pcl] at write
    rw [meaning, tableRead_of_next write, traits.cycles]
    exact ⟨_, _, rfl, rfl⟩

end Sys2Proof.Machine
end

section
/-!
The statements on STATUS and PCL as destinations.
-/
namespace Sys2Proof.Machine

/-- Settles O26: the byte written is that of the instruction's result on STATUS as it stood. -/
theorem flagWritersOnStatusLeaveTheirFlagsOpen : Obligations.FlagWritersOnStatusLeaveTheirFlagsOpen := by
  intro s m h
  obtain ⟨c, ac, z, ov, pdf⟩ := s.statusByte_bits
  refine ⟨fun i hi => ?arithmetic, fun p hp => ?zeroOnly, ?rrc, ?rlc, ?daa⟩
  case arithmetic =>
    simp only [List.mem_cons, List.not_mem_nil, or_false] at hi
    rcases hi with rfl | rfl | rfl | rfl <;>
      simp only [exec, execAddM, execAdcM, execSubM, execSbcM, operandToMem_status _ h,
        State.putLoc_status] <;>
      exact ⟨_, _, _, _, rfl⟩
  case zeroOnly =>
    simp only [List.mem_cons, List.not_mem_nil, or_false] at hp
    rcases hp with rfl | rfl | rfl | rfl | rfl | rfl <;>
      simp only [exec, execAndM, execOrM, execXorM, execCpl, execInc, execDec, operandToMem_status _ h,
        State.putLoc_status] <;>
      exact ⟨_, rfl⟩
  case rrc =>
    simp only [exec, execRrc, operandToMem_status _ h, State.putLoc_status, rorc_flags,
      FlagUpdate.raced_carryOnly, Option.getD_none, rorc_value_getLsbD, Nat.reduceLT, Nat.reduceAdd, z,
      ov, pdf]
    exact ⟨_, rfl⟩
  case rlc =>
    simp only [exec, execRlc, operandToMem_status _ h, State.putLoc_status, rolc_flags,
      FlagUpdate.raced_carryOnly, Option.getD_none, rolc_value_getLsbD, Nat.reduceLT, c, ac, z]
    exact ⟨_, rfl⟩
  case daa =>
    simp only [exec, execDaa, valueToMem_eq, h, State.putLoc_status]
    exact ⟨_, _, rfl⟩

/-- Settles O40: the write of PCL is a jump within the page, whatever the shape of the instruction. -/
theorem writingPclJumpsWithinThePage : Obligations.WritingPclJumpsWithinThePage := by
  intro s m pcl notEnd
  have read := State.operandByte_pcl pcl
  refine ⟨read, fun n r => ?write, fun i dest notSiz notSdz => ?all, ?movM, ?clr, ?set,
    (add8 s.acc (s.pc.setWidth 8 + 1#8) false).value, ?sum, ?addM⟩
  case write => rw [pcl, State.writeLoc_pcl notEnd]
  case all =>
    exact (operandShape (dataOperand_of_memoryDestination dest) fun _ => notEnd).jumps_of_pcl dest
      notSiz notSdz pcl notEnd
  case movM =>
    simp only [exec, execMovM, valueToMem_eq, pcl, State.putLoc_pcl notEnd]
    rfl
  case clr =>
    simp only [exec, execClr, valueToMem_eq, pcl, State.putLoc_pcl notEnd]
    rfl
  case set =>
    simp only [exec, execSet, valueToMem_eq, pcl, State.putLoc_pcl notEnd]
    rfl
  case sum =>
    rw [add8_value_toNat, BitVec.toNat_add, BitVec.toNat_setWidth, BitVec.toNat_ofNat, Bool.toNat_false]
    omega
  case addM =>
    simp only [exec, execAddM, operandToMem_of_operand _ read, pcl, State.putLoc_pcl notEnd,
      State.startInstr_acc, State.applyFlags_add8]

end Sys2Proof.Machine
end

section
/-!
SUPPORT. Encodings that meet R94 (30_encoding.md): `decode` and `encode` are the two readings of one set of rows.
-/
namespace Sys2Proof

/-- R94 (b), (c), row by row. -/
theorem Encoding.wf_iff {enc : Encoding} : enc.wf = true ↔
    (∀ r ∈ enc, Encoding.addressInPlace r = true) ∧ ∀ r ∈ enc, ∀ q ∈ enc, r.1 = q.1 ↔ r.2 = q.2 := by
  have sameAnswer (r q : Word14 × Instr) :
      (r.1 == q.1) = (r.2 == q.2) ↔ (r.1 = q.1 ↔ r.2 = q.2) := by
    rw [Bool.eq_iff_iff, beq_iff_eq, beq_iff_eq]
  simp only [Encoding.wf, Encoding.oneToOne, Bool.and_eq_true, List.all_eq_true, beq_iff_eq, sameAnswer]

/-- R94 (b): the word of a term is the only one. -/
theorem Encoding.word_unique {enc : Encoding} (wf : enc.wf = true) {w w' : Word14} {i : Instr}
    (h : (w, i) ∈ enc) (h' : (w', i) ∈ enc) : w = w' := by
  obtain ⟨-, oneToOne⟩ := Encoding.wf_iff.mp wf
  exact (oneToOne _ h _ h').mpr rfl

/-- R94 (b): the term of a word is the only one. -/
theorem Encoding.term_unique {enc : Encoding} (wf : enc.wf = true) {w : Word14} {i j : Instr}
    (h : (w, i) ∈ enc) (h' : (w, j) ∈ enc) : i = j := by
  obtain ⟨-, oneToOne⟩ := Encoding.wf_iff.mp wf
  exact (oneToOne _ h _ h').mp rfl

/-- A word with a row decodes to the term of some row of it. -/
theorem exists_decode_of_mem {enc : Encoding} {w : Word14} {i : Instr} (h : (w, i) ∈ enc) :
    ∃ j, decode enc w = some j :=
  Option.isSome_iff_exists.mp (List.lookup_isSome_iff.mpr ⟨_, h, beq_self_eq_true w⟩)

/-- A word encodes only a term that stands beside it in the encoding. -/
theorem mem_of_encode {enc : Encoding} {w : Word14} {i : Instr} (h : encode enc i = some w) :
    (w, i) ∈ enc := by
  obtain ⟨⟨w', j⟩, found, rfl⟩ := Option.map_eq_some_iff.mp h
  have same : (j == i) = true := List.find?_some (p := fun r : Word14 × Instr => r.2 == i) found
  exact beq_iff_eq.mp same ▸ List.mem_of_find?_eq_some found

/-- A term with a row has a word. -/
theorem exists_encode_of_mem {enc : Encoding} {w : Word14} {i : Instr} (h : (w, i) ∈ enc) :
    ∃ w', encode enc i = some w' := by
  obtain ⟨r, found⟩ := Option.isSome_iff_exists.mp
    (List.find?_isSome (p := fun r : Word14 × Instr => r.2 == i).mpr ⟨_, h, beq_self_eq_true i⟩)
  exact ⟨r.1, Option.map_eq_some_iff.mpr ⟨r, found, rfl⟩⟩

/-- Under R94 (b) a word decodes to exactly the term beside it. -/
theorem decode_eq_some_iff {enc : Encoding} (wf : enc.wf = true) {w : Word14} {i : Instr} :
    decode enc w = some i ↔ (w, i) ∈ enc := by
  refine ⟨Machine.mem_of_decode, fun h => ?_⟩
  obtain ⟨j, hj⟩ := exists_decode_of_mem h
  rw [hj, Encoding.term_unique wf h (Machine.mem_of_decode hj)]

/-- Under R94 (b) a term encodes to exactly the word beside it. -/
theorem encode_eq_some_iff {enc : Encoding} (wf : enc.wf = true) {w : Word14} {i : Instr} :
    encode enc i = some w ↔ (w, i) ∈ enc := by
  refine ⟨mem_of_encode, fun h => ?_⟩
  obtain ⟨w', hw'⟩ := exists_encode_of_mem h
  rw [hw', Encoding.word_unique wf h (mem_of_encode hw')]

/-- A word of format A is the same as another only where opcode and target are (R91). -/
theorem addressWord_inj {o p : BitVec 4} {a b : ProgAddr} :
    (o ++ a : Word14) = (p ++ b : Word14) ↔ o = p ∧ a = b := by
  refine ⟨fun h => ⟨?opcode, ?target⟩, fun ⟨opcode, target⟩ => by rw [opcode, target]⟩
  case opcode =>
    simpa only [BitVec.extractLsb'_append_eq_left] using congrArg (BitVec.extractLsb' 10 4) h
  case target => simpa only [BitVec.setWidth_append_eq_right] using congrArg (BitVec.setWidth 10) h

/-- The low ten bits of a word of format A are its target (R91). -/
theorem addressWord_target (o : BitVec 4) (a : ProgAddr) : (o ++ a : Word14).setWidth 10 = a :=
  BitVec.setWidth_append_eq_right

end Sys2Proof
end

section
/-!
The statements on the encoding (R94): all but the written words follow from `decode_eq_some_iff` and
`encode_eq_some_iff`.
-/
namespace Sys2Proof

/-- Settles O1: the row that completeness gives is the one that `encode` and `decode` find. -/
theorem everyTermDecodesFromItsOneWord : Obligations.EveryTermDecodesFromItsOneWord := by
  intro enc wf complete i
  obtain ⟨w, row⟩ := complete i
  exact ⟨w, (encode_eq_some_iff wf).mpr row, (decode_eq_some_iff wf).mpr row,
    fun w' h => Encoding.word_unique wf (Machine.mem_of_decode h) row⟩

/-- Settles O2: the row that `decode` finds is the one that `encode` finds. -/
theorem everyDecodedWordIsItsTermsWord : Obligations.EveryDecodedWordIsItsTermsWord := by
  intro enc wf w i h
  exact (encode_eq_some_iff wf).mpr (Machine.mem_of_decode h)

/-- Settles O3: the row that `decode` finds has its address in place. -/
theorem jumpAndCallWordsHoldTheirTarget : Obligations.JumpAndCallWordsHoldTheirTarget := by
  intro enc wf w a h
  obtain ⟨inPlace, -⟩ := Encoding.wf_iff.mp wf
  rcases h with jmp | call
  · exact (beq_iff_eq.mp (inPlace _ (Machine.mem_of_decode jmp))).symm
  · exact (beq_iff_eq.mp (inPlace _ (Machine.mem_of_decode call))).symm

/-- Settles O4: the two targets tell the two rows apart, and the opcode fields the third word from both. -/
theorem writtenJumpAndCallWordsDecode : Obligations.WrittenJumpAndCallWordsDecode := by
  intro o p q _ _ qp
  have wf : Encoding.wf [(o ++ 0x2A5#10, .jmp 0x2A5#10), (p ++ 0x003#10, .call 0x003#10)] = true := by
    simp [Encoding.wf_iff, Encoding.addressInPlace, addressWord_inj, addressWord_target]
  refine ⟨wf, (decode_eq_some_iff wf).mpr (by simp), (decode_eq_some_iff wf).mpr (by simp), ?_⟩
  simp [decode, List.lookup_eq_none_iff, addressWord_inj, qp]

end Sys2Proof
end

section
/-!
SUPPORT. What every step keeps sound: the RAM's cells, and a disabled watchdog's count (`State.StoreSound`); and
how a step can end in HALT mode.
-/
namespace Sys2Proof.Machine

/-! ## The part of the invariant that data writes and cycles reach -/

/-- The RAM is in canonical form and lists only its 32 addresses (R35, R71), and a disabled watchdog has counted
nothing (R268). -/
structure State.StoreSound (s : State) : Prop where
  ramWf : Memory.wf s.ram
  ramIn : ∀ cell ∈ s.ram, gprBase s.params ≤ cell.1 ∧ cell.1 < gprBase s.params + 32
  count : s.params.options.wdtEnable = false → s.wdt = 0

theorem State.clocked_of_disabled {s : State} (off : s.params.options.wdtEnable = false) (n : Nat) :
    s.clocked n = s.wdt := by
  simp [State.clocked, off]

/-- Ticks do not count where the RC oscillator does not clock an enabled watchdog (R269). -/
theorem State.atBoundary_wdt_of_not_clocked {s : State}
    (h : s.params.options.wdtEnable = false ∨ s.params.options.wdtClk = .fsysDiv4) :
    s.atBoundary.wdt = s.wdt := by
  rcases h with h | h <;> simp [State.atBoundary, State.countOscTicks, h]

namespace State.StoreSound
variable {s t : State}

/-- What touches neither the RAM nor a disabled watchdog keeps both sound. -/
theorem of_eq (h : s.StoreSound) (ram : t.ram = s.ram) (params : t.params = s.params)
    (wdt : s.params.options.wdtEnable = false → t.wdt = s.wdt) : t.StoreSound where
  ramWf := ram ▸ h.ramWf
  ramIn := by rw [ram, params]; exact h.ramIn
  count off := by rw [params] at off; exact (wdt off).trans (h.count off)

/-- What clears the watchdog keeps the count sound. -/
theorem of_cleared (h : s.StoreSound) (ram : t.ram = s.ram) (params : t.params = s.params)
    (wdt : t.wdt = 0) : t.StoreSound where
  ramWf := ram ▸ h.ramWf
  ramIn := by rw [ram, params]; exact h.ramIn
  count _ := wdt

/-- A lost RAM lists nothing. -/
theorem of_lost (ram : t.ram = []) (wdt : t.wdt = 0) : t.StoreSound where
  ramWf := by rw [ram]; exact List.Pairwise.nil
  ramIn := by rw [ram]; exact fun _ none => absurd none List.not_mem_nil
  count _ := wdt

theorem countCycles (h : s.StoreSound) (n : Nat) : (s.countCycles n).StoreSound :=
  h.of_eq rfl rfl fun off => (s.countCycles_wdt n).trans (clocked_of_disabled off n)

theorem startInstr (h : s.StoreSound) (n : Nat) : (s.startInstr n).StoreSound :=
  (h.of_eq (t := { s with pc := s.pc + 1#10 }) rfl rfl fun _ => rfl).countCycles n

theorem skipIf (h : s.StoreSound) (b : Bool) : (s.skipIf b).StoreSound := by
  cases b with
  | false => exact h
  | true => exact (h.of_eq (t := { s with pc := s.pc + 1#10 }) rfl rfl fun _ => rfl).countCycles 1

theorem ramWrite (h : s.StoreSound) {a : Nat} (v : Byte) (lo : gprBase s.params ≤ a)
    (hi : a < gprBase s.params + 32) : (s.ramWrite a v).StoreSound where
  ramWf := Memory.wf_write h.ramWf a v
  ramIn cell mem := by
    rcases Memory.mem_write mem with rfl | old
    · exact ⟨lo, hi⟩
    · exact h.ramIn cell old
  count := h.count

/-- An operand in the RAM is at one of its addresses, so a write of `[m]` stays among them. -/
theorem writeLoc (h : s.StoreSound) {m : DataAddr} {v : Byte}
    (write : s.writeLoc (s.resolve m) v = .next t) : t.StoreSound := by
  rcases State.writeLoc_next write with ⟨-, rfl⟩ | ⟨-, rfl⟩ | ⟨-, rfl⟩ | ⟨-, -, rfl⟩ | ⟨-, rfl⟩ |
    ⟨-, rfl⟩ | ⟨-, rfl⟩ | ⟨-, rfl⟩ | ⟨-, rfl⟩ | ⟨-, rfl⟩ | ⟨-, rfl⟩ | ⟨a, ram, rfl⟩
  case inr.inr.inr.inl =>
    exact (h.of_eq (t := { s with pc := s.pc.extractLsb' 8 2 ++ v }) rfl rfl fun _ => rfl).countCycles 1
  case inr.inr.inr.inr.inr.inr.inr.inr.inr.inr.inr =>
    obtain ⟨lo, hi⟩ := State.resolve_gpr ram
    exact h.ramWrite v lo hi
  all_goals exact h.of_eq rfl rfl fun _ => rfl

theorem serviceWatchdog (h : s.StoreSound) : s.serviceWatchdog.StoreSound := by
  cases enabled : s.params.options.wdtEnable with
  | true => exact h.of_cleared (by simp) (by simp) (by simp [State.serviceWatchdog, enabled])
  | false => exact h.of_eq (by simp) (by simp) fun _ => by simp [State.serviceWatchdog, enabled]

end State.StoreSound

/-! ## Instructions -/

theorem DataEffect.storeSound {i : Instr} {s t : State} (d : DataEffect i s t) (h : s.StoreSound) :
    t.StoreSound := by
  cases d with
  | toAcc o => exact (h.startInstr 1).of_eq rfl rfl fun _ => rfl
  | toMem o _ _ put =>
    obtain ⟨u, write, rfl⟩ := State.putLoc_next put
    exact ((h.startInstr 1).writeLoc write).of_eq rfl rfl fun _ => rfl
  | skip b => exact (h.startInstr 1).skipIf b
  | skipAcc v b =>
    exact State.StoreSound.skipIf ((h.startInstr 1).of_eq (t := (s.startInstr 1).setAcc v)
      rfl rfl fun _ => rfl) b
  | skipMem v b _ _ write => exact ((h.startInstr 1).writeLoc write).skipIf b
  | nop => exact h.startInstr 1
  | jmp a => exact (h.startInstr 2).of_eq rfl rfl fun _ => rfl

theorem Effect.storeSound {i : Instr} {s t : State} (e : Effect i s t) (h : s.StoreSound) :
    t.StoreSound := by
  cases e with
  | data d => exact d.storeSound h
  | table lo hi _ _ write => exact ((h.startInstr 2).writeLoc write).of_eq rfl rfl fun _ => rfl
  | call | ret | retA | reti => exact (h.startInstr 2).of_eq rfl rfl fun _ => rfl
  | marks => exact (h.startInstr 1).of_eq rfl rfl fun _ => rfl
  | clears => exact (h.startInstr 1).serviceWatchdog.of_eq rfl rfl fun _ => rfl
  | halt => exact (h.startInstr 1).of_cleared rfl rfl rfl

/-! ## Events -/

/-- A reset of the powered chip keeps the RAM or empties it, with the watchdog cleared (D18). -/
theorem State.StoreSound.ramThroughReset {s : State} (h : s.StoreSound) (cleared : s.wdt = 0) :
    s.ramThroughReset.StoreSound := by
  rcases s.ramThroughReset_cases with ⟨-, kept⟩ | ⟨-, lost⟩
  · rwa [kept]
  · rw [lost]; exact .of_lost rfl cleared

theorem takeEvent_storeSound {e : Event} {s t : State} (he : takeEvent e s = .next t)
    (h : s.StoreSound) : t.StoreSound := by
  have restarted : s.restart.StoreSound := h.of_cleared rfl rfl rfl
  have initialised : s.restart.initPorts.ramThroughReset.StoreSound :=
    State.StoreSound.ramThroughReset (h.of_cleared rfl rfl rfl) rfl
  rcases takeEvent_next he with ⟨-, rfl⟩ | ⟨-, rfl⟩ | ⟨-, rfl⟩ | ⟨-, rfl⟩
  · exact .of_lost rfl rfl
  · exact initialised.of_eq rfl rfl fun _ => rfl
  · unfold State.timeoutReset
    split
    · exact initialised.of_eq rfl rfl fun _ => rfl
    · exact restarted.of_eq rfl rfl fun _ => rfl
  · exact h.of_eq rfl rfl fun _ => rfl

/-- After every event the core runs (R265, R275). -/
theorem takeEvent_mode {e : Event} {s t : State} (h : takeEvent e s = .next t) : t.mode = .run := by
  rcases takeEvent_next h with ⟨-, rfl⟩ | ⟨-, rfl⟩ | ⟨-, rfl⟩ | ⟨-, rfl⟩
  · rfl
  · simp [State.resReset]
  · unfold State.timeoutReset
    split <;> simp
  · rfl

/-- A time-out is due only of an enabled watchdog (R268). -/
theorem State.wdtEnable_of_timeout_due {s : State} (h : s.dueEvent = some .wdtTimeout) :
    s.params.options.wdtEnable = true := by
  cases enabled : s.params.options.wdtEnable with
  | true => rfl
  | false =>
    have notDue : s.atBoundary.wdtDue s.input.wdtFire = false := by simp [State.wdtDue, enabled]
    simp only [State.dueEvent, State.pendingEvent, notDue, Bool.false_eq_true, if_false] at h
    split_ifs at h <;> cases h

/-! ## Steps -/

theorem step_storeSound {s t : State} (h : step s = .next t) (sound : s.StoreSound) :
    t.StoreSound := by
  have boundary : s.atBoundary.StoreSound :=
    sound.of_eq rfl rfl fun off => State.atBoundary_wdt_of_not_clocked (.inl off)
  rcases step_next h with ⟨e, u, -, he, rfl⟩ | ⟨-, -, rfl⟩ | ⟨i, u, -, -, -, hx, rfl⟩
  · exact (takeEvent_storeSound he boundary).of_eq rfl rfl fun _ => rfl
  · exact boundary.of_eq rfl rfl fun _ => rfl
  · exact ((exec_effect hx).storeSound boundary).of_eq rfl rfl fun _ => rfl

/-- A step ends in HALT mode by idling there, or by the HALT instruction (R248, R274). -/
theorem step_to_halt {s t : State} (h : step s = .next t) (halted : t.mode = .halt) :
    (s.mode = .halt ∧ t = s.atBoundary.passTime) ∨
      (t.tout = false ∧ t.pdf = true ∧ t.wdt = 0) := by
  rcases step_next h with ⟨e, u, -, he, rfl⟩ | ⟨-, idle, rfl⟩ | ⟨i, u, -, running, -, hx, rfl⟩
  · exact absurd (halted.symm.trans (u.passTime_mode.trans (takeEvent_mode he))) nofun
  · exact .inl ⟨idle, rfl⟩
  · by_cases hi : i = .halt
    · subst hi
      cases hx
      exact .inr ⟨rfl, rfl, rfl⟩
    · obtain ⟨-, -, -, -, modeKept⟩ := hiddenStateHasItsOwnWriters i _ u hx
      exact absurd (halted.symm.trans ((modeKept hi).trans running)) nofun

/-- A due event acts in place of the core (R264). -/
theorem step_of_due {s : State} {e : Event} (h : s.dueEvent = some e) :
    step s = onNext (takeEvent e s.atBoundary) State.passTime := by
  have hp : (s.countOscTicks s.input.oscTicks).pendingEvent s.input = some e := h
  simp only [step, hp]
  rfl

/-- A word that spells no instruction is a fault (R95, R261). -/
theorem coreStep_of_no_fetch {s : State} (hm : s.mode = .run) (hf : s.fetch = none) :
    coreStep s = .fault .undefinedInstruction := by
  simp only [coreStep, hm, hf]

/-- In HALT mode the core does nothing (R274). -/
theorem coreStep_of_halt {s : State} (hm : s.mode = .halt) : coreStep s = .next s := by
  simp only [coreStep, hm]

end Sys2Proof.Machine
end

section
/-!
The statements on the step beside the encoding: the invariant, and the steps that run no instruction.
-/
namespace Sys2Proof.Machine

/-- Settles O8: the RAM and the count by `step_storeSound`, TO by the rule that only a time-out sets it, and
HALT mode by the two ways a step ends in it. -/
theorem everyStepKeepsTheInvariant : Obligations.EveryStepKeepsTheInvariant := by
  intro s t inv h
  obtain ⟨lawful, ⟨⟨ramWf, ramIn⟩, romWf, romIn⟩, haltFlags, quiet, stopped⟩ := inv
  obtain ⟨rom, params⟩ := noStepChangesProgramOrOptions s t h
  obtain ⟨ramWf', ramIn', count⟩ := step_storeSound h ⟨ramWf, ramIn, fun off => (quiet off).1⟩
  refine ⟨params ▸ lawful, ⟨⟨ramWf', ramIn'⟩, rom ▸ romWf, rom ▸ romIn⟩, fun halted => ?flags,
    fun off => ⟨count off, ?tout⟩, fun halted clk => ?stopped⟩
  case flags =>
    rcases step_to_halt h halted with ⟨idle, rfl⟩ | ⟨tout, pdf, -⟩
    · exact haltFlags idle
    · exact ⟨tout, pdf⟩
  case tout =>
    rw [params] at off
    refine Bool.eq_false_iff.mpr fun set => ?_
    obtain ⟨-, onlyTimeoutSetsTo⟩ := powerFlagsChangeOnlyByWatchdogAndHalt
    rcases onlyTimeoutSetsTo s t h set with before | due
    · exact absurd before (Bool.eq_false_iff.mp (quiet off).2)
    · exact absurd (State.wdtEnable_of_timeout_due due) (Bool.eq_false_iff.mp off)
  case stopped =>
    rcases step_to_halt h halted with ⟨idle, rfl⟩ | ⟨-, -, wdt⟩
    · have notCounted : s.atBoundary.wdt = s.wdt := State.atBoundary_wdt_of_not_clocked (.inr clk)
      exact notCounted.trans (stopped idle clk)
    · exact wdt

/-- Settles O9: the chip's encoding is lawful by its type, the memories list nothing, and the core runs. -/
theorem resetHasTheInvariant : Obligations.ResetHasTheInvariant := by
  obtain ⟨ramWf, romWf⟩ := State.reset_memories_wf
  exact ⟨chipEncoding_lawful, ⟨⟨ramWf, nofun⟩, romWf, nofun⟩, nofun, fun _ => ⟨rfl, rfl⟩, nofun⟩

/-- Settles O6: the event, or the core's part on a word without a term and in HALT mode. -/
theorem stepWithoutADecodedInstruction : Obligations.StepWithoutADecodedInstruction := by
  refine fun s => ⟨fun e => step_of_due, fun running due noTerm => ?_, fun halted due => ?_⟩
  · rw [step_of_not_due due, coreStep_of_no_fetch (s.atBoundary_mode.trans running)
      (s.atBoundary_fetch.trans noTerm), onNext_fault]
  · rw [step_of_not_due due, coreStep_of_halt (s.atBoundary_mode.trans halted), onNext_next]
    rfl

end Sys2Proof.Machine
end

section
/-!
SUPPORT. Subtraction by the adder (R111), results that go to ACC or to `[m]` (R113 to R124), and DAA nibble by
nibble (R123).
-/
namespace Sys2Proof.Machine

/-! ## Subtraction (R111): the incoming carry is the borrow inverted -/

/-- In two's complement, as in whole numbers, the complement of `b` is `-b - 1`. -/
theorem toInt_not_byte (b : Byte) : (~~~b).toInt = -b.toInt - 1 := by
  have hb := b.isLt
  simp only [BitVec.toInt_eq_toNat_cond, BitVec.toNat_not]
  omega

theorem add8_not_value (a b : Byte) (k : Bool) :
    (add8 a (~~~b) k).value = a - b - BitVec.ofNat 8 (!k).toNat := by
  have hb := b.isLt
  rw [add8_value]
  cases k <;> simp only [Bool.not_true, Bool.not_false, Bool.toNat_true, Bool.toNat_false] <;> bv_omega

/-- The flags of a subtraction, in whole numbers: `!k` is the borrow that comes in. -/
theorem add8_not_flags (a b : Byte) (k : Bool) :
    (add8 a (~~~b) k).flags =
      { c := some (decide (b.toNat + (!k).toNat ≤ a.toNat))
        ac := some (decide (b.toNat % 16 + (!k).toNat ≤ a.toNat % 16))
        z := some (decide ((add8 a (~~~b) k).value = 0#8))
        ov := some (decide ((add8 a (~~~b) k).value.toInt ≠ a.toInt - b.toInt - (!k).toNat)) } := by
  have hb := b.isLt
  have complement : (~~~b).toNat = 255 - b.toNat := BitVec.toNat_not
  have borrow : (!k).toNat + k.toNat = 1 := by cases k <;> rfl
  have carry : 256 ≤ a.toNat + (255 - b.toNat) + k.toNat ↔ b.toNat + (!k).toNat ≤ a.toNat := by omega
  have half : 16 ≤ a.toNat % 16 + (255 - b.toNat) % 16 + k.toNat ↔
      b.toNat % 16 + (!k).toNat ≤ a.toNat % 16 := by omega
  have sum : a.toInt + (-b.toInt - 1) + (k.toNat : Int) = a.toInt - b.toInt - (!k).toNat := by omega
  simp only [add8_flags, complement, toInt_not_byte, carry, half, sum]

/-- A subtraction from ACC leaves its flags in any state. -/
theorem State.applyFlags_add8_not (s u : State) (v : Byte) (k : Bool) :
    u.applyFlags (add8 s.acc (~~~v) k).flags = (s.afterSub v (!k)).copyFlags u := by
  rw [add8_not_flags, add8_not_value]
  rfl

/-! ## A result that goes to ACC -/

section toAcc
variable {m : DataAddr} {v : Byte} {s : State}

theorem State.startInstr_putAcc (o : AluOut) :
    (s.startInstr 1).putAcc o = (s.accGets o.value).applyFlags o.flags := by
  rw [State.putAcc, s.startInstr_eq]
  rfl

theorem operandToAcc_of_operand (f : State → Byte → AluOut) (h : s.operandByte m = some v) :
    operandToAcc f m s = .next ((s.accGets (f (s.startInstr 1) v).value).applyFlags
      (f (s.startInstr 1) v).flags) := by
  simp only [operandToAcc]
  rw [withOperand_of_operand _ h, State.startInstr_putAcc]

theorem immediateToAcc_eq (f : State → AluOut) :
    immediateToAcc f s = .next ((s.accGets (f (s.startInstr 1)).value).applyFlags
      (f (s.startInstr 1)).flags) := by
  simp only [immediateToAcc]
  rw [State.startInstr_putAcc]

/-- The sum and its flags in ACC and STATUS. -/
theorem State.accGets_add8 (s : State) (v : Byte) (k : Bool) :
    (s.accGets (add8 s.acc v k).value).applyFlags (add8 s.acc v k).flags = s.afterAdd v k := by
  rw [State.applyFlags_add8, add8_value]
  rfl

/-- The difference and its flags in ACC and STATUS. -/
theorem State.accGets_add8_not (s : State) (v : Byte) (k : Bool) :
    (s.accGets (add8 s.acc (~~~v) k).value).applyFlags (add8 s.acc (~~~v) k).flags =
      s.afterSub v (!k) := by
  rw [State.applyFlags_add8_not, add8_not_value]
  rfl

theorem operandToAcc_add8 (k : Bool) (read : s.operandByte m = some v) :
    operandToAcc (fun t v => add8 t.acc v k) m s = .next (s.afterAdd v k) := by
  rw [← s.accGets_add8]
  exact operandToAcc_of_operand _ read

theorem operandToAcc_add8_not (k : Bool) (read : s.operandByte m = some v) :
    operandToAcc (fun t v => add8 t.acc (~~~v) k) m s = .next (s.afterSub v (!k)) := by
  rw [← s.accGets_add8_not]
  exact operandToAcc_of_operand _ read

theorem immediateToAcc_add8 (s : State) (v : Byte) (k : Bool) :
    immediateToAcc (fun t => add8 t.acc v k) s = .next (s.afterAdd v k) := by
  rw [← s.accGets_add8]
  exact immediateToAcc_eq _

theorem immediateToAcc_add8_not (s : State) (v : Byte) (k : Bool) :
    immediateToAcc (fun t => add8 t.acc (~~~v) k) s = .next (s.afterSub v (!k)) := by
  rw [← s.accGets_add8_not]
  exact immediateToAcc_eq _

end toAcc

/-! ## A result that goes to `[m]` -/

section toMem
variable {i : Instr} {m : DataAddr} {s : State}

/-- Where `[m]` can be written and is not STATUS, its byte is the result and the flags follow (R124). -/
theorem writesByte_of_putLoc {o : AluOut} {r : Byte} {after : State → State}
    (writable : s.writable m = true) (notStatus : s.resolve m ≠ .status)
    (meaning : exec i s = (s.startInstr 1).putLoc (s.resolve m) o) (value : o.value = r)
    (flags : ∀ u : State, u.applyFlags o.flags = after u) : writesByte i m r after s := by
  subst value
  obtain ⟨u, write⟩ := State.writeLoc_of_writable writable 1 o.value
  refine ⟨u, write, ?_⟩
  rw [meaning, State.putLoc_of_next notStatus write, flags u]

variable {v : Byte}

/-- The sum of ACC and `[m]` in `[m]`. -/
theorem writesByte_add8 (k : Bool) (read : s.operandByte m = some v)
    (writable : s.writable m = true) (notStatus : s.resolve m ≠ .status)
    (meaning : exec i s = operandToMem (fun t v => add8 t.acc v k) m s) :
    writesByte i m (s.afterAdd v k).acc (s.afterAdd v k).copyFlags s :=
  writesByte_of_putLoc writable notStatus (meaning.trans (operandToMem_of_operand _ read))
    (add8_value s.acc v k) fun u => s.applyFlags_add8 u v k

/-- The difference of ACC and `[m]` in `[m]`. -/
theorem writesByte_add8_not (k : Bool) (read : s.operandByte m = some v)
    (writable : s.writable m = true) (notStatus : s.resolve m ≠ .status)
    (meaning : exec i s = operandToMem (fun t v => add8 t.acc (~~~v) k) m s) :
    writesByte i m (s.afterSub v (!k)).acc (s.afterSub v (!k)).copyFlags s :=
  writesByte_of_putLoc writable notStatus (meaning.trans (operandToMem_of_operand _ read))
    (add8_not_value s.acc v k) fun u => s.applyFlags_add8_not u v k

end toMem

/-! ## DAA (R123) -/

/-- The carry between the nibbles in DAA, from the low nibble `lo` and AC; the corner of D25 is open. -/
def daaNibbleCarry (lo : Nat) (ac corner : Bool) : Nat :=
  if 9 < lo ∧ ac = true then corner.toNat else if 9 < lo then 1 else 0

theorem daaNibbleCarry_le (lo : Nat) (ac corner : Bool) : daaNibbleCarry lo ac corner ≤ 1 := by
  unfold daaNibbleCarry
  split
  · exact Bool.toNat_le corner
  · split <;> omega

theorem daaNibbleCarry_of_not_corner {lo : Nat} {ac : Bool} (corner : Bool)
    (h : ¬(9 < lo ∧ ac = true)) : daaNibbleCarry lo ac corner = if 9 < lo then 1 else 0 :=
  if_neg h

/-- The low nibble DAA leaves. -/
def daaLow (lo : Nat) (ac : Bool) : Nat :=
  if 9 < lo ∨ ac = true then (lo + 6) % 16 else lo

/-- The high nibble DAA leaves, from the high nibble and the carry into it. -/
def daaHigh (hi carry : Nat) (c : Bool) : Nat :=
  if 9 < hi + carry ∨ c = true then (hi + 6 + carry) % 16 else (hi + carry) % 16

/-- DAA in whole numbers, nibble by nibble; C is set by an adjusted high nibble and never cleared. -/
theorem daa8_eq (a : Byte) (c ac corner : Bool) :
    daa8 a c ac corner =
      { value := BitVec.ofNat 8
          (16 * daaHigh (a.toNat / 16) (daaNibbleCarry (a.toNat % 16) ac corner) c +
            daaLow (a.toNat % 16) ac)
        flags :=
          { c := some (c || decide (9 < a.toNat / 16 + daaNibbleCarry (a.toNat % 16) ac corner)) } } := by
  have carry : (if decide (9 < a.toNat % 16) || ac then
        (if decide (9 < a.toNat % 16) && ac then corner else !ac) else false).toNat =
      daaNibbleCarry (a.toNat % 16) ac corner := by
    unfold daaNibbleCarry
    cases ac <;> by_cases low : 9 < a.toNat % 16 <;> simp [low]
  simp only [daa8, carry]
  generalize daaNibbleCarry (a.toNat % 16) ac corner = k
  simp only [daaHigh, daaLow, Nat.mul_comm 16, Bool.or_eq_true, decide_eq_true_eq]
  cases c <;> simp

/-! ## DAA after an addition of decimal digits -/

/-- The adder nibble by nibble. -/
theorem add8_nibbles (a b : Byte) (k : Bool) :
    (add8 a b k).value.toNat % 16 = (a.toNat % 16 + b.toNat % 16 + k.toNat) % 16 ∧
    (add8 a b k).value.toNat / 16 =
      (a.toNat / 16 + b.toNat / 16 + (a.toNat % 16 + b.toNat % 16 + k.toNat) / 16) % 16 := by
  rw [add8_value_toNat]
  omega

/-- The carry out of the byte, from the sum of the high nibbles and AC. -/
theorem add8_carry (a b : Byte) (k : Bool) :
    (add8 a b k).flags.c = some (decide (16 ≤ a.toNat / 16 + b.toNat / 16 +
      (a.toNat % 16 + b.toNat % 16 + k.toNat) / 16)) := by
  rw [add8_flags, Option.some.injEq, decide_eq_decide]
  omega

/-- Of the sum `d` of two decimal digits and a carry, as a nibble and AC, DAA leaves the decimal digit. -/
theorem daaLow_of_digits {d : Nat} (h : d < 20) : daaLow (d % 16) (decide (16 ≤ d)) = d % 10 := by
  simp only [daaLow, decide_eq_true_eq]
  split <;> omega

/-- AC and the carry DAA makes between the nibbles are together the decimal carry of `d`; the corner of
D25 would need a nibble over 9 after a carry, and the sum is below 20. -/
theorem daaNibbleCarry_of_digits {d : Nat} (h : d < 20) (corner : Bool) :
    d / 16 + daaNibbleCarry (d % 16) (decide (16 ≤ d)) corner = d / 10 := by
  rw [daaNibbleCarry_of_not_corner corner (by simp only [decide_eq_true_eq]; omega)]
  split <;> omega

/-- The high nibble likewise: `e` is the sum of the digits and AC, `carry` what DAA adds to it. -/
theorem daaHigh_of_digits {e carry : Nat} (h : e + carry < 20) :
    daaHigh (e % 16) carry (decide (16 ≤ e)) = (e + carry) % 10 := by
  simp only [daaHigh, decide_eq_true_eq]
  split <;> omega

/-- The carry out of the sum of the high digits, or out of DAA's adjustment, is the decimal one. -/
theorem daaCarryOut_of_digits {e carry : Nat} (small : carry ≤ 1) :
    (decide (16 ≤ e) || decide (9 < e % 16 + carry)) = decide (10 ≤ e + carry) := by
  rw [← Bool.decide_or, decide_eq_decide]
  omega

/-- The nibbles of a packed decimal byte are the digits of its number. -/
theorem nibbles_of_packed {x : Nat} {a : Byte} (h : a.toNat = 16 * (x / 10) + x % 10) :
    a.toNat % 16 = x % 10 ∧ a.toNat / 16 = x / 10 := by
  omega

/-- The heart of DAA: from the nibbles and the carries of a binary sum whose low digits sum to `ones` and
whose high digits to `tens`, it makes the digits and the carry of the decimal sum. -/
theorem daa8_of_digitSums {r : Byte} {tens ones : Nat} (corner : Bool) (small : ones < 20)
    (high : tens < 19) (lowNibble : r.toNat % 16 = ones % 16)
    (highNibble : r.toNat / 16 = (tens + ones / 16) % 16) :
    (daa8 r (decide (16 ≤ tens + ones / 16)) (decide (16 ≤ ones)) corner).value.toNat =
        16 * ((tens + ones / 10) % 10) + ones % 10 ∧
      (daa8 r (decide (16 ≤ tens + ones / 16)) (decide (16 ≤ ones)) corner).flags.c =
        some (decide (10 ≤ tens + ones / 10)) := by
  have carry := daaNibbleCarry_of_digits small corner
  have tensAre : tens + ones / 16 + daaNibbleCarry (ones % 16) (decide (16 ≤ ones)) corner =
      tens + ones / 10 := by rw [Nat.add_assoc, carry]
  have fits : tens + ones / 10 < 20 := by omega
  rw [daa8_eq, lowNibble, highNibble, daaLow_of_digits small, daaHigh_of_digits (by rwa [tensAre]),
    daaCarryOut_of_digits (daaNibbleCarry_le _ _ _), tensAre]
  exact ⟨Nat.mod_eq_of_lt (by omega), rfl⟩

/-- The digits of a decimal sum, from the sums of its high and of its low digits. -/
theorem digits_of_digitSums (tens ones : Nat) :
    (10 * tens + ones) % 10 = ones % 10 ∧
      (10 * tens + ones) % 100 / 10 = (tens + ones / 10) % 10 ∧
      (100 ≤ 10 * tens + ones ↔ 10 ≤ tens + ones / 10) := by
  have shift := Nat.mod_mul_right_div_self (10 * tens + ones) 10 10
  omega

end Sys2Proof.Machine
end

section
/-!
The statements on arithmetic: the adder, subtraction, the instructions, DAA.
-/
namespace Sys2Proof.Machine

/-- Settles O20: the byte and the flags of the adder in whole numbers. -/
theorem adderGivesSumCarriesOverflowAndZero : Obligations.AdderGivesSumCarriesOverflowAndZero :=
  fun a b k => ⟨(add8 a b k).value, add8_value_toNat a b k,
    congrArg (AluOut.mk (add8 a b k).value) (add8_flags a b k)⟩

/-- Settles O21: both subtractions are the adder on the complement; SUB's incoming borrow is 0. -/
theorem subtractionSetsCarryWhenNoBorrow : Obligations.SubtractionSetsCarryWhenNoBorrow := by
  intro a b k
  have value : (sub8 a b).value = a - b := (add8_not_value a b true).trans (BitVec.sub_zero _)
  exact ⟨rfl, rfl, value, congrArg FlagUpdate.c (add8_not_flags a b true),
    congrArg FlagUpdate.ac (add8_not_flags a b true), add8_not_value a b k,
    congrArg FlagUpdate.c (add8_not_flags a b k), congrArg FlagUpdate.ac (add8_not_flags a b k)⟩

/-- Settles O22: the operand is read, then the result goes to ACC. -/
theorem addAndSubtractIntoTheAccumulator : Obligations.AddAndSubtractIntoTheAccumulator :=
  fun s _ v => ⟨immediateToAcc_add8 s v false, immediateToAcc_add8_not s v true, fun read =>
    ⟨operandToAcc_add8 false read, operandToAcc_add8 s.c read,
      operandToAcc_add8_not true read, operandToAcc_add8_not s.c read⟩⟩

/-- Settles O23: the same results put at `[m]`. -/
theorem arithmeticIntoMemory : Obligations.ArithmeticIntoMemory :=
  fun s _ _ read writable notStatus =>
    ⟨writesByte_add8 false read writable notStatus rfl, writesByte_add8 s.c read writable notStatus rfl,
      writesByte_add8_not true read writable notStatus rfl,
      writesByte_add8_not s.c read writable notStatus rfl⟩

/-- Settles O24: the carry between the nibbles is that of the model, open in the corner only. -/
theorem daaAdjustsTheAccumulatorIntoMemory : Obligations.DaaAdjustsTheAccumulatorIntoMemory := by
  intro s m writable notStatus
  have daa := daa8_eq s.acc s.c s.ac (Config.daaCarry s.drawIndex)
  refine ⟨daaNibbleCarry (s.acc.toNat % 16) s.ac (Config.daaCarry s.drawIndex),
    daaNibbleCarry_le _ _ _, daaNibbleCarry_of_not_corner _, ?_⟩
  exact writesByte_of_putLoc writable notStatus rfl (congrArg AluOut.value daa) fun u =>
    congrArg (fun o : AluOut => u.applyFlags o.flags) daa

/-- Settles O25: nibble by nibble, DAA turns the binary sum of the digits into the decimal one. -/
theorem daaCorrectsDecimalAddition : Obligations.DaaCorrectsDecimalAddition := by
  intro x y a b k corner hx hy ha hb c ac hc hac
  have onesBound : x % 10 + y % 10 + k.toNat < 20 := by
    have hk := Bool.toNat_le k
    omega
  have tensBound : x / 10 + y / 10 < 19 := by omega
  have sum : x + y + k.toNat = 10 * (x / 10 + y / 10) + (x % 10 + y % 10 + k.toNat) := by omega
  obtain ⟨aLow, aHigh⟩ := nibbles_of_packed ha
  obtain ⟨bLow, bHigh⟩ := nibbles_of_packed hb
  obtain ⟨lowNibble, highNibble⟩ := add8_nibbles a b k
  rw [aLow, bLow] at lowNibble
  rw [aLow, bLow, aHigh, bHigh] at highNibble
  rw [add8_carry, aLow, bLow, aHigh, bHigh] at hc
  rw [add8_flags, aLow, bLow] at hac
  obtain rfl := Option.some.inj hc
  obtain rfl := Option.some.inj hac
  obtain ⟨ones, tens, hundred⟩ := digits_of_digitSums (x / 10 + y / 10) (x % 10 + y % 10 + k.toNat)
  rw [sum]
  simp only [ones, tens, hundred]
  exact daa8_of_digitSums corner onesBound tensBound lowNibble highNibble

end Sys2Proof.Machine
end

section
/-!
SUPPORT. Results that write Z and only Z, at ACC and at `[m]` (R130, R154), and the complement in whole
numbers (R140).
-/
namespace Sys2Proof.Machine

/-- The complement of a byte is its difference from 255. -/
theorem not_byte_eq (b : Byte) : ~~~b = BitVec.ofNat 8 (255 - b.toNat) := by
  apply BitVec.eq_of_toNat_eq
  rw [BitVec.toNat_not, BitVec.toNat_ofNat]
  omega

/-- Of the flags only Z is written, from the byte. -/
theorem State.applyFlags_zeroFlagged (u : State) (r : Byte) :
    u.applyFlags (zeroFlagged r).flags = { u with z := decide (r = 0#8) } := rfl

section zeroOnly
variable {i : Instr} {m : DataAddr} {v : Byte} {s : State}

theorem immediateToAcc_zeroFlagged (f : State → Byte) :
    immediateToAcc (fun t => zeroFlagged (f t)) s = .next (s.accGetsZero (f (s.startInstr 1))) := by
  rw [immediateToAcc_eq, State.applyFlags_zeroFlagged]
  rfl

theorem operandToAcc_zeroFlagged (f : State → Byte → Byte) (read : s.operandByte m = some v) :
    operandToAcc (fun t w => zeroFlagged (f t w)) m s =
      .next (s.accGetsZero (f (s.startInstr 1) v)) := by
  rw [operandToAcc_of_operand _ read, State.applyFlags_zeroFlagged]
  rfl

theorem writesByte_zeroFlagged (f : State → Byte → Byte) (read : s.operandByte m = some v)
    (writable : s.writable m = true) (notStatus : s.resolve m ≠ .status)
    (meaning : exec i s = operandToMem (fun t w => zeroFlagged (f t w)) m s) :
    writesByte i m (f (s.startInstr 1) v)
      (fun u => { u with z := decide (f (s.startInstr 1) v = 0#8) }) s :=
  writesByte_of_putLoc writable notStatus (meaning.trans (operandToMem_of_operand _ read)) rfl
    fun u => u.applyFlags_zeroFlagged _

end zeroOnly

end Sys2Proof.Machine
end

section
/-!
The statements on the logic instructions.
-/
namespace Sys2Proof.Machine

/-- Settles O27: immediate or operand, the result goes to ACC and Z is taken from it. -/
theorem logicIntoTheAccumulator : Obligations.LogicIntoTheAccumulator := by
  intro s m v
  refine ⟨immediateToAcc_zeroFlagged (·.acc &&& v), immediateToAcc_zeroFlagged (·.acc ||| v),
    immediateToAcc_zeroFlagged (·.acc ^^^ v), fun read => ⟨?and, ?or, ?xor, ?complement⟩⟩
  case and => exact operandToAcc_zeroFlagged (·.acc &&& ·) read
  case or => exact operandToAcc_zeroFlagged (·.acc ||| ·) read
  case xor => exact operandToAcc_zeroFlagged (·.acc ^^^ ·) read
  case complement =>
    rw [← not_byte_eq]
    exact operandToAcc_zeroFlagged (fun _ w => ~~~w) read

/-- Settles O28: the same results put at `[m]`. -/
theorem logicIntoMemory : Obligations.LogicIntoMemory := by
  intro s m v read writable notStatus
  simp only [List.forall_mem_cons, List.not_mem_nil, false_imp_iff, implies_true, and_true]
  refine ⟨?and, ?or, ?xor, ?complement⟩
  case and => exact writesByte_zeroFlagged (·.acc &&& ·) read writable notStatus rfl
  case or => exact writesByte_zeroFlagged (·.acc ||| ·) read writable notStatus rfl
  case xor => exact writesByte_zeroFlagged (·.acc ^^^ ·) read writable notStatus rfl
  case complement =>
    rw [← not_byte_eq]
    exact writesByte_zeroFlagged (fun _ w => ~~~w) read writable notStatus rfl

end Sys2Proof.Machine
end

section
/-!
SUPPORT. A byte one more and one less in whole numbers (R150, R152), and when it is zero (R154).
-/
namespace Sys2Proof.Machine

theorem byte_add_one_eq (b : Byte) : b + 1#8 = BitVec.ofNat 8 ((b.toNat + 1) % 256) := by
  apply BitVec.eq_of_toNat_eq
  simp

theorem byte_sub_one_eq (b : Byte) : b - 1#8 = BitVec.ofNat 8 ((b.toNat + 255) % 256) := by
  apply BitVec.eq_of_toNat_eq
  rw [BitVec.toNat_sub, BitVec.toNat_ofNat, BitVec.toNat_ofNat]
  omega

theorem byte_add_one_eq_zero_iff (b : Byte) : b + 1#8 = 0#8 ↔ b.toNat = 255 := by
  bv_omega

theorem byte_sub_one_eq_zero_iff (b : Byte) : b - 1#8 = 0#8 ↔ b.toNat = 1 := by
  bv_omega

end Sys2Proof.Machine
end

section
/-!
The statement on increments and decrements.
-/
namespace Sys2Proof.Machine

/-- Settles O29: each is a result that writes Z alone, of the operand one more or one less. -/
theorem incrementsAndDecrementsWriteOnlyZ : Obligations.IncrementsAndDecrementsWriteOnlyZ := by
  intro s m v read
  rw [← byte_add_one_eq, ← byte_sub_one_eq]
  simp only [← byte_add_one_eq_zero_iff, ← byte_sub_one_eq_zero_iff]
  refine ⟨?inca, ?deca, fun writable notStatus => ⟨?inc, ?dec⟩⟩
  case inca => exact operandToAcc_zeroFlagged (fun _ w => w + 1#8) read
  case deca => exact operandToAcc_zeroFlagged (fun _ w => w - 1#8) read
  case inc => exact writesByte_zeroFlagged (fun _ w => w + 1#8) read writable notStatus rfl
  case dec => exact writesByte_zeroFlagged (fun _ w => w - 1#8) read writable notStatus rfl

end Sys2Proof.Machine
end

section
/-!
SUPPORT. A rotated byte bit by bit (R160 to R167), results that write no flag or C alone (R168), at ACC and at
`[m]`.
-/
namespace Sys2Proof.Machine

/-! ## The rotated byte -/

/-- A rotate right through carry puts the carry in at the top and moves every other bit one place down. -/
theorem rorc_value_bits (v : Byte) (c : Bool) :
    (rorc v c).value.getLsbD 7 = c ∧ ∀ i < 7, (rorc v c).value.getLsbD i = v.getLsbD (i + 1) := by
  refine ⟨?_, fun _ => rorc_value_getLsbD v c⟩
  rw [rorc, BitVec.getLsbD_append, if_neg (by omega), BitVec.getLsbD_ofBool, decide_eq_true rfl,
    Bool.true_and]

/-- A rotate left through carry puts the carry in at the bottom and moves every other bit one place up. -/
theorem rolc_value_bits (v : Byte) (c : Bool) :
    (rolc v c).value.getLsbD 0 = c ∧ ∀ i < 7, (rolc v c).value.getLsbD (i + 1) = v.getLsbD i := by
  refine ⟨?_, fun _ => rolc_value_getLsbD v c⟩
  rw [rolc, BitVec.getLsbD_append, if_pos (by omega), BitVec.getLsbD_ofBool, decide_eq_true rfl,
    Bool.true_and]

theorem extractLsb'_one_eq_ofBool (v : Byte) (i : Nat) :
    v.extractLsb' i 1 = BitVec.ofBool (v.getLsbD i) := by
  refine BitVec.eq_of_getLsbD_eq fun j hj => ?_
  obtain rfl := Nat.lt_one_iff.mp hj
  rw [BitVec.getLsbD_extractLsb', BitVec.getLsbD_ofBool, decide_eq_true hj, decide_eq_true rfl,
    Nat.add_zero]

/-- A plain rotate right is one through a carry that holds the bit rotated out. -/
theorem ror8_eq_rorc (v : Byte) : ror8 v = (rorc v (v.getLsbD 0)).value := by
  rw [ror8, rorc, extractLsb'_one_eq_ofBool]

/-- A plain rotate left is one through a carry that holds the bit rotated out. -/
theorem rol8_eq_rolc (v : Byte) : rol8 v = (rolc v (v.getLsbD 7)).value := by
  rw [rol8, rolc, extractLsb'_one_eq_ofBool]

theorem ror8_bits (v : Byte) :
    (ror8 v).getLsbD 7 = v.getLsbD 0 ∧ ∀ i < 7, (ror8 v).getLsbD i = v.getLsbD (i + 1) := by
  rw [ror8_eq_rorc]
  exact rorc_value_bits v _

theorem rol8_bits (v : Byte) :
    (rol8 v).getLsbD 0 = v.getLsbD 7 ∧ ∀ i < 7, (rol8 v).getLsbD (i + 1) = v.getLsbD i := by
  rw [rol8_eq_rolc]
  exact rolc_value_bits v _

/-! ## Results that write no flag -/

section
variable {i : Instr} {m : DataAddr} {v : Byte} {s : State}

theorem operandToAcc_unflagged (f : State → Byte → Byte) (read : s.operandByte m = some v) :
    operandToAcc (fun t w => unflagged (f t w)) m s = .next (s.accGets (f (s.startInstr 1) v)) :=
  operandToAcc_of_operand _ read

/-- With no flag to write there is none to race at STATUS either: the result is data there (D11). -/
theorem State.putLoc_unflagged (l : Loc) (r : Byte) (t : State) :
    t.putLoc l (unflagged r) = t.writeLoc l r := by
  have noFlags : (if l = .status then (unflagged r).flags.raced t.drawIndex
      else (unflagged r).flags) = (unflagged r).flags := ite_self _
  rw [State.putLoc, noFlags]
  change onNext (t.writeLoc l r) _ = _
  cases t.writeLoc l r <;> rfl

theorem writesByte_of_putLoc_unflagged {r : Byte} (writable : s.writable m = true)
    (meaning : exec i s = (s.startInstr 1).putLoc (s.resolve m) (unflagged r)) :
    writesByte i m r id s := by
  obtain ⟨u, write⟩ := State.writeLoc_of_writable writable 1 r
  exact ⟨u, write, by rw [meaning, State.putLoc_unflagged, write, id]⟩

theorem writesByte_unflagged (f : State → Byte → Byte) (read : s.operandByte m = some v)
    (writable : s.writable m = true)
    (meaning : exec i s = operandToMem (fun t w => unflagged (f t w)) m s) :
    writesByte i m (f (s.startInstr 1) v) id s :=
  writesByte_of_putLoc_unflagged writable (meaning.trans (operandToMem_of_operand _ read))

/-! ## Results that write C alone -/

theorem operandToAcc_carryOnly (f : State → Byte → AluOut) {b : Bool}
    (read : s.operandByte m = some v) (flags : (f (s.startInstr 1) v).flags = { c := some b }) :
    operandToAcc f m s = .next { s.accGets (f (s.startInstr 1) v).value with c := b } := by
  rw [operandToAcc_of_operand f read, flags]
  rfl

theorem writesByte_carryOnly (f : State → Byte → AluOut) {b : Bool}
    (read : s.operandByte m = some v) (writable : s.writable m = true)
    (notStatus : s.resolve m ≠ .status) (meaning : exec i s = operandToMem f m s)
    (flags : (f (s.startInstr 1) v).flags = { c := some b }) :
    writesByte i m (f (s.startInstr 1) v).value (fun u => { u with c := b }) s :=
  writesByte_of_putLoc writable notStatus (meaning.trans (operandToMem_of_operand f read)) rfl
    fun u => by rw [flags]; rfl

end

end Sys2Proof.Machine
end

section
/-!
The statements on the rotates.
-/
namespace Sys2Proof.Machine

/-- Settles O30: the forms through carry read C as it stood before them. -/
theorem rotatesIntoTheAccumulator : Obligations.RotatesIntoTheAccumulator := by
  intro s m v read
  refine ⟨⟨ror8 v, ?rra, ror8_bits v⟩, ⟨(rorc v s.c).value, ?rrca, rorc_value_bits v s.c⟩,
    ⟨rol8 v, ?rla, rol8_bits v⟩, ⟨(rolc v s.c).value, ?rlca, rolc_value_bits v s.c⟩⟩
  case rra => exact operandToAcc_unflagged (fun _ w => ror8 w) read
  case rrca => exact operandToAcc_carryOnly (fun t w => rorc w t.c) read (rorc_flags v s.c)
  case rla => exact operandToAcc_unflagged (fun _ w => rol8 w) read
  case rlca => exact operandToAcc_carryOnly (fun t w => rolc w t.c) read (rolc_flags v s.c)

/-- Settles O31: the same bytes put at `[m]`; only a result that writes C has a flag to race at STATUS. -/
theorem rotatesIntoMemory : Obligations.RotatesIntoMemory := by
  intro s m v read writable
  refine ⟨⟨ror8 v, ?rr, ror8_bits v⟩, ⟨rol8 v, ?rl, rol8_bits v⟩, fun notStatus =>
    ⟨⟨(rorc v s.c).value, ?rrc, rorc_value_bits v s.c⟩,
      ⟨(rolc v s.c).value, ?rlc, rolc_value_bits v s.c⟩⟩⟩
  case rr => exact writesByte_unflagged (fun _ w => ror8 w) read writable rfl
  case rl => exact writesByte_unflagged (fun _ w => rol8 w) read writable rfl
  case rrc =>
    exact writesByte_carryOnly (fun t w => rorc w t.c) read writable notStatus rfl (rorc_flags v s.c)
  case rlc =>
    exact writesByte_carryOnly (fun t w => rolc w t.c) read writable notStatus rfl (rolc_flags v s.c)

end Sys2Proof.Machine
end

section
/-!
SUPPORT. Results that write no flag and need no operand: an immediate to ACC (R182), and a value put at `[m]`
without reading it (R181).
-/
namespace Sys2Proof.Machine

section
variable {i : Instr} {m : DataAddr} {s : State}

theorem immediateToAcc_unflagged (f : State → Byte) :
    immediateToAcc (fun t => unflagged (f t)) s = .next (s.accGets (f (s.startInstr 1))) :=
  immediateToAcc_eq _

theorem writesByte_value_unflagged (f : State → Byte) (writable : s.writable m = true)
    (meaning : exec i s = valueToMem (fun t => unflagged (f t)) m s) :
    writesByte i m (f (s.startInstr 1)) id s :=
  writesByte_of_putLoc_unflagged writable (meaning.trans (valueToMem_eq _))

end

end Sys2Proof.Machine
end

section
/-!
The statement on the moves.
-/
namespace Sys2Proof.Machine

/-- Settles O32: each move is a result that writes no flag; only `MOV A,[m]` reads an operand. -/
theorem movesCopyAByteAndNoFlag : Obligations.MovesCopyAByteAndNoFlag := by
  intro s m v
  refine ⟨?movI, fun read => ?movA, fun writable => ?movM⟩
  case movI => exact immediateToAcc_unflagged fun _ => v
  case movA => exact operandToAcc_unflagged (fun _ w => w) read
  case movM =>
    rw [← s.startInstr_acc 1]
    exact writesByte_value_unflagged State.acc writable rfl

end Sys2Proof.Machine
end

section
/-!
SUPPORT. The byte with one bit cleared or set, bit by bit (R190, R191).
-/
namespace Sys2Proof.Machine

/-- The mask of bit `i` has bit `i` alone. -/
theorem bitMask_getLsbD (i : BitIndex) (k : Nat) :
    (1#8 <<< i.toNat).getLsbD k = decide (k = i.toNat) := by
  rw [← BitVec.twoPow_eq, BitVec.getLsbD_twoPow, decide_eq_true i.isLt, Bool.true_and]
  exact decide_eq_decide.mpr eq_comm

theorem clearBit_getLsbD (v : Byte) (i : BitIndex) {k : Nat} (hk : k < 8) :
    (clearBit v i).getLsbD k = (v.getLsbD k && !decide (k = i.toNat)) := by
  rw [clearBit, BitVec.getLsbD_and, BitVec.getLsbD_not, bitMask_getLsbD, decide_eq_true hk,
    Bool.true_and]

theorem insertBit_getLsbD (v : Byte) (i : BitIndex) (k : Nat) :
    (insertBit v i).getLsbD k = (v.getLsbD k || decide (k = i.toNat)) := by
  rw [insertBit, BitVec.getLsbD_or, bitMask_getLsbD]

end Sys2Proof.Machine
end

section
/-!
The statement on the bit operations.
-/
namespace Sys2Proof.Machine

/-- Settles O33: each is a result that writes no flag, of the operand with one bit cleared or set, so STATUS
is a location like any other. -/
theorem bitInstructionsWriteTheWholeByteBack : Obligations.BitInstructionsWriteTheWholeByteBack := by
  intro s m i v read writable
  refine ⟨⟨clearBit v i, ?clr, fun _ => clearBit_getLsbD v i⟩,
    ⟨insertBit v i, ?set, fun k _ => insertBit_getLsbD v i k⟩⟩
  case clr => exact writesByte_unflagged (fun _ w => clearBit w i) read writable rfl
  case set => exact writesByte_unflagged (fun _ w => insertBit w i) read writable rfl

end Sys2Proof.Machine
end

section
/-!
SUPPORT. Skips, calls and returns as whole next states (R200 to R213), and where a write of `[m]` leaves the
program counter (R214).
-/
namespace Sys2Proof.Machine

/-! ## Skips -/

theorem progAddr_add_one_add_one (a : ProgAddr) : a + 1#10 + 1#10 = a + 2#10 :=
  BitVec.add_assoc a 1#10 1#10

/-- A skip passes one instruction more in one cycle more (R200, R320). -/
theorem State.startInstr_skipIf (b : Bool) (s : State) :
    (s.startInstr 1).skipIf b = s.afterSkip b := by
  cases b with
  | false => exact s.startInstr_eq 1
  | true =>
    simp only [State.afterSkip, if_true]
    rw [← progAddr_add_one_add_one, ← s.clocked_startInstr 1 1, ← State.countCycles_wdt]
    rfl

/-- A load of ACC and a skip do not touch each other. -/
theorem State.setAcc_skipIf (v : Byte) (b : Bool) (t : State) :
    (t.setAcc v).skipIf b = (t.skipIf b).setAcc v := by
  cases b <;> rfl

/-- The test of a result for zero, by what its being zero says of the operand. -/
theorem byte_beq_zero_eq_decide {r : Byte} {p : Prop} [Decidable p] (zero : r = 0#8 ↔ p) :
    (r == 0#8) = decide p :=
  decide_eq_decide.mpr zero

theorem byte_eq_zero_iff (b : Byte) : b = 0#8 ↔ b.toNat = 0 :=
  BitVec.toNat_inj.symm

section skips
variable {i : Instr} {m : DataAddr} {v : Byte} {s : State}

theorem skipOnOperand_of_operand (test : Byte → Bool) (read : s.operandByte m = some v) :
    skipOnOperand test m s = .next (s.afterSkip (test v)) := by
  simp only [skipOnOperand]
  rw [withOperand_of_operand _ read, State.startInstr_skipIf]

variable {p : Prop} [Decidable p]

/-- ACC is loaded whether or not the skip is taken. -/
theorem skipToAcc_of_operand (f : Byte → Byte) (read : s.operandByte m = some v)
    (zero : f v = 0#8 ↔ p) :
    skipToAcc f m s = .next { s.afterSkip (decide p) with acc := f v } := by
  simp only [skipToAcc]
  rw [withOperand_of_operand _ read, byte_beq_zero_eq_decide zero, State.setAcc_skipIf,
    State.startInstr_skipIf]
  rfl

/-- The byte is written whether or not the skip is taken. -/
theorem writesByte_skip (f : Byte → Byte) (read : s.operandByte m = some v)
    (writable : s.writable m = true) (notPcl : s.resolve m ≠ .pcl)
    (meaning : exec i s = skipToMem f m s) (zero : f v = 0#8 ↔ p) :
    writesByte i m (f v) (State.skipIf (decide p)) s := by
  obtain ⟨u, write⟩ := State.writeLoc_of_writable writable 1 (f v)
  refine ⟨u, write, ?_⟩
  rw [meaning, skipToMem_of_operand f notPcl read, write, onNext_next, byte_beq_zero_eq_decide zero]

end skips

/-! ## The stack register (R210, R211) -/

theorem State.startInstr_pushCall (a : ProgAddr) (s : State) :
    (s.startInstr 2).pushCall a = { s.transferTo a with stack := s.pc + 1#10, sp := 1 } := by
  rw [s.startInstr_eq]
  rfl

theorem State.startInstr_popReturn (s : State) :
    (s.startInstr 2).popReturn = { s.transferTo s.stack with sp := 0 } := by
  rw [s.startInstr_eq]
  rfl

theorem execCall_of_free {s : State} (a : ProgAddr) (free : s.sp = 0) :
    exec (.call a) s = .next { s.transferTo a with stack := s.pc + 1#10, sp := 1 } := by
  rw [← State.startInstr_pushCall]
  exact if_neg (by simp [free])

theorem execCall_of_held {s : State} (a : ProgAddr) (held : s.sp = 1) :
    exec (.call a) s = .fault .stackOverflow :=
  if_pos held

/-- A call completes only where no return address is held (D8). -/
theorem sp_of_execCall_next {a : ProgAddr} {s t : State} (h : exec (.call a) s = .next t) :
    s.sp = 0 := by
  by_contra notFree
  rw [execCall_of_held a (by omega)] at h
  cases h

theorem execRet_of_held {s : State} (held : s.sp = 1) :
    exec .ret s = .next { s.transferTo s.stack with sp := 0 } := by
  rw [← State.startInstr_popReturn]
  exact if_neg (by simp [held])

/-! ## The program counter after a write of `[m]` (R65, R214) -/

/-- Bits 9..8 of an address with a byte below them are its page with that byte. -/
theorem pageBits_append (a : ProgAddr) (b : Byte) :
    (a.extractLsb' 8 2 ++ b : BitVec (2 + 8)) = inPageOf a b := by
  have ha := a.isLt
  have hb := b.isLt
  apply BitVec.eq_of_toNat_eq
  rw [toNat_joined, BitVec.extractLsb'_toNat, Nat.shiftRight_eq_div_pow, inPageOf, BitVec.toNat_ofNat]
  omega

/-- Only a write of PCL reaches the program counter, and it keeps the page. -/
theorem State.writeLoc_pc {l : Loc} {v : Byte} {s t : State} (h : s.writeLoc l v = .next t) :
    t.pc = s.pc ∨ (l = .pcl ∧ t.pc = inPageOf s.pc v) := by
  rcases State.writeLoc_next h with ⟨-, rfl⟩ | ⟨-, rfl⟩ | ⟨-, rfl⟩ | ⟨pcl, -, rfl⟩ | ⟨-, rfl⟩ |
    ⟨-, rfl⟩ | ⟨-, rfl⟩ | ⟨-, rfl⟩ | ⟨-, rfl⟩ | ⟨-, rfl⟩ | ⟨-, rfl⟩ | ⟨_, -, rfl⟩
  case inr.inr.inr.inl => exact .inr ⟨pcl, pageBits_append s.pc v⟩
  all_goals exact .inl rfl

/-- Away from PCL a write leaves the program counter. -/
theorem State.writeLoc_pc_of_ne {l : Loc} {v : Byte} {s t : State} (notPcl : l ≠ .pcl)
    (h : s.writeLoc l v = .next t) : t.pc = s.pc :=
  (State.writeLoc_pc h).resolve_right fun ⟨pcl, _⟩ => notPcl pcl

/-- A skip from the next address stays there or goes one on. -/
theorem State.skipIf_pc_of_next {s u : State} (b : Bool) (next : u.pc = s.pc + 1#10) :
    (u.skipIf b).pc = s.pc + 1#10 ∨ (u.skipIf b).pc = s.pc + 2#10 := by
  cases b with
  | false => exact .inl next
  | true => exact .inr ((congrArg (· + 1#10) next).trans (progAddr_add_one_add_one s.pc))

end Sys2Proof.Machine
end

section
/-!
The statements on branches, skips, calls and returns.
-/
namespace Sys2Proof.Machine

/-- Settles O36: a test of the operand, or a result that goes to ACC and is tested for zero. -/
theorem skipsThatWriteNoMemory : Obligations.SkipsThatWriteNoMemory := by
  intro s m i v read
  refine ⟨?sz, ?szBit, ?snzBit, ?sza, ?siza, ?sdza⟩
  case sz =>
    rw [← byte_beq_zero_eq_decide (byte_eq_zero_iff v)]
    exact skipOnOperand_of_operand (fun w => w == 0#8) read
  case szBit => exact skipOnOperand_of_operand (fun w => !w.getLsbD i.toNat) read
  case snzBit => exact skipOnOperand_of_operand (fun w => w.getLsbD i.toNat) read
  case sza => exact skipToAcc_of_operand (fun w => w) read (byte_eq_zero_iff v)
  case siza => exact skipToAcc_of_operand (fun w => w + 1#8) read (byte_add_one_eq_zero_iff v)
  case sdza => exact skipToAcc_of_operand (fun w => w - 1#8) read (byte_sub_one_eq_zero_iff v)

/-- Settles O37: the result goes to `[m]` and is tested for zero. -/
theorem skipsThatWriteMemory : Obligations.SkipsThatWriteMemory := by
  intro s m v read writable notPcl
  refine ⟨?siz, ?sdz⟩
  case siz =>
    exact writesByte_skip (fun w => w + 1#8) read writable notPcl rfl (byte_add_one_eq_zero_iff v)
  case sdz =>
    exact writesByte_skip (fun w => w - 1#8) read writable notPcl rfl (byte_sub_one_eq_zero_iff v)

/-- Settles O38: `sp` decides which of the four complete; RET A,x and RETI do what RET does, and more. -/
theorem callAndReturnsUseTheOneStackLevel : Obligations.CallAndReturnsUseTheOneStackLevel := by
  refine fun s addr x => ⟨fun free => ?free, fun held => ?held⟩
  case free =>
    exact ⟨execCall_of_free addr free, if_pos free, if_pos free, if_pos free⟩
  case held =>
    have notFree : s.sp ≠ 0 := by simp [held]
    refine ⟨execCall_of_held addr held, execRet_of_held held, ?retA, ?reti⟩
    case retA =>
      simp only [exec, execRetA, if_neg notFree, State.startInstr_popReturn]
      rfl
    case reti => simp only [exec, execReti, if_neg notFree, State.startInstr_popReturn]

/-- Settles O39: the call found the stack free, so it left its own return address for the return. -/
theorem returnAfterCallComesBack : Obligations.ReturnAfterCallComesBack := by
  intro s t addr h
  have free := sp_of_execCall_next h
  rw [execCall_of_free addr free] at h
  cases h
  refine ⟨_, execRet_of_held rfl, ?_⟩
  rw [← free]
  rfl

/-- Settles O49, by the effect of each instruction. -/
theorem theProgramCounterGoesNowhereElse : Obligations.TheProgramCounterGoesNowhereElse := by
  intro i s t h
  cases exec_effect h with
  | data d =>
    cases d with
    | toAcc | nop => exact .inl rfl
    | toMem o traits _ put =>
      obtain ⟨u, write, rfl⟩ := State.putLoc_next put
      rcases State.writeLoc_pc write with next | ⟨pcl, page⟩
      · exact .inl next
      · exact .inr (.inr (.inr (.inr ⟨_, _, traits.dest, pcl, page⟩)))
    | skip b traits | skipAcc _ b traits =>
      exact (State.skipIf_pc_of_next b rfl).imp_right fun two => .inl ⟨traits.skips, two⟩
    | skipMem v b traits notPcl write =>
      have next := State.writeLoc_pc_of_ne notPcl write
      exact (State.skipIf_pc_of_next b next).imp_right fun two => .inl ⟨traits.skips, two⟩
    | jmp a => exact .inr (.inr (.inl ⟨a, .inl rfl, rfl⟩))
  | table lo hi traits _ write =>
    rcases State.writeLoc_pc write with next | ⟨pcl, page⟩
    · exact .inl next
    · exact .inr (.inr (.inr (.inr ⟨_, _, traits.dest, pcl, page⟩)))
  | call a => exact .inr (.inr (.inl ⟨a, .inr rfl, rfl⟩))
  | ret => exact .inr (.inr (.inr (.inl ⟨.inl rfl, rfl⟩)))
  | reti => exact .inr (.inr (.inr (.inl ⟨.inr (.inl rfl), rfl⟩)))
  | retA x => exact .inr (.inr (.inr (.inl ⟨.inr (.inr ⟨x, rfl⟩), rfl⟩)))
  | marks | halt => exact .inl rfl
  | clears => exact .inl (by simp)

end Sys2Proof.Machine
end

section
/-!
SUPPORT. The word a table read finds and its two parts in whole numbers (R73), the address it is read at (R231,
R232), and what a table read answers where `[m]` can be written.
-/
namespace Sys2Proof.Machine

/-! ## The two parts of a program word (R73) -/

theorem lowByte_eq (w : Word14) : w.setWidth 8 = BitVec.ofNat 8 (w.toNat % 256) := by
  apply BitVec.eq_of_toNat_eq
  simp

theorem highBits_eq (w : Word14) : w.extractLsb' 8 6 = BitVec.ofNat 6 (w.toNat / 256) := by
  apply BitVec.eq_of_toNat_eq
  rw [BitVec.extractLsb'_toNat, Nat.shiftRight_eq_div_pow, BitVec.toNat_ofNat]

/-! ## Where the word is read -/

/-- The start of an instruction leaves program memory (R36). -/
@[simp] theorem State.progRead_startInstr (ta : ProgAddr) (n : Nat) (s : State) :
    (s.startInstr n).progRead ta = s.progRead ta := rfl

/-- Bits 9..8 set with a byte below them are an address of the last page (R232). -/
theorem lastPage_eq (b : Byte) : (0b11#2 ++ b : BitVec (2 + 8)) = BitVec.ofNat 10 (0x300 + b.toNat) := by
  have hb := b.isLt
  apply BitVec.eq_of_toNat_eq
  rw [toNat_joined, BitVec.toNat_ofNat, BitVec.toNat_ofNat]
  omega

section
variable {i : Instr} {m : DataAddr} {s : State}

/-- Away from a page end the address after TABRDC is in its own page (R231, D7). -/
theorem exec_tabrdc_of_not_pageEnd (notEnd : s.standsAtPageEnd = false) :
    exec (.tabrdc m) s = tableRead (inPageOf s.pc s.tblp) m (s.startInstr 2) := by
  have page := page_of_next (by simpa [State.standsAtPageEnd] using notEnd) s.tblp
  exact (execTabrdc_of_not_pageEnd notEnd).trans (congrArg (tableRead · m (s.startInstr 2)) page)

theorem exec_tabrdl :
    exec (.tabrdl m) s = tableRead (BitVec.ofNat 10 (0x300 + s.tblp.toNat)) m (s.startInstr 2) :=
  congrArg (tableRead · m (s.startInstr 2)) (lastPage_eq s.tblp)

/-- A table read completes wherever `[m]` can be written: the low byte goes there, then the rest to TBLH. -/
theorem tableRead_splits {ta : ProgAddr} (writable : s.writable m = true)
    (meaning : exec i s = tableRead ta m (s.startInstr 2)) :
    ∃ u w, w = s.progRead ta ∧
      (s.startInstr 2).writeLoc (s.resolve m) (BitVec.ofNat 8 (w.toNat % 256)) = .next u ∧
      exec i s = .next { u with tblh := BitVec.ofNat 6 (w.toNat / 256) } := by
  obtain ⟨u, write⟩ := State.writeLoc_of_writable writable 2 ((s.progRead ta).setWidth 8)
  refine ⟨u, s.progRead ta, rfl, by rw [← lowByte_eq, write], ?_⟩
  rw [meaning, tableRead_of_next (by simpa using write), State.progRead_startInstr, highBits_eq]

end

end Sys2Proof.Machine
end

section
/-!
The statement on table reads.
-/
namespace Sys2Proof.Machine

/-- Settles O41: the two instructions are one table read at two addresses. -/
theorem tableReadsSplitTheWord : Obligations.TableReadsSplitTheWord :=
  fun _ _ writable =>
    ⟨fun notEnd => tableRead_splits writable (exec_tabrdc_of_not_pageEnd notEnd),
      tableRead_splits writable exec_tabrdl⟩

end Sys2Proof.Machine
end

section
/-!
SUPPORT. A byte with its nibbles interchanged, in whole numbers (R246), and a bit instruction on a port: the byte
it writes, line by line (R190, R191, R312).
-/
namespace Sys2Proof.Machine

/-! ## Nibbles -/

theorem swapNibbles_eq (v : Byte) :
    swapNibbles v = BitVec.ofNat 8 (16 * (v.toNat % 16) + v.toNat / 16) := by
  have hv := v.isLt
  have high : v.toNat / 16 % 16 = v.toNat / 16 := Nat.mod_eq_of_lt (by omega)
  apply BitVec.eq_of_toNat_eq
  simp only [swapNibbles, toNat_joined, BitVec.extractLsb'_toNat, Nat.shiftRight_eq_div_pow,
    Nat.reducePow, BitVec.toNat_ofNat, Nat.div_one, high]
  omega

/-! ## A bit instruction -/

/-- The byte with the bit `i` made `v`. -/
def putBit (v : Bool) (w : Byte) (i : BitIndex) : Byte :=
  if v then insertBit w i else clearBit w i

theorem putBit_getLsbD (v : Bool) (w : Byte) (i : BitIndex) {k : Nat} (hk : k < 8) :
    (putBit v w i).getLsbD k = if k = i.toNat then v else w.getLsbD k := by
  cases v with
  | false => rw [putBit, if_neg nofun, clearBit_getLsbD w i hk]; split <;> simp [*]
  | true => rw [putBit, if_pos rfl, insertBit_getLsbD]; split <;> simp [*]

section
variable {m : DataAddr} {s : State}

/-- CLR [m].i and SET [m].i put back the operand with the one bit changed. -/
theorem exec_bitInstruction {w : Byte} (v : Bool) (i : BitIndex) (read : s.operandByte m = some w) :
    exec (if v then .setBit m i else .clrBit m i) s =
      (s.startInstr 1).writeLoc (s.resolve m) (putBit v w i) := by
  rw [← State.putLoc_unflagged]
  cases v with
  | false => exact operandToMem_of_operand (fun _ w => unflagged (clearBit w i)) read
  | true => exact operandToMem_of_operand (fun _ w => unflagged (insertBit w i)) read

theorem State.operandByte_portA (port : s.resolve m = .portA) :
    s.operandByte m = some s.portReadA := by
  rw [State.operandByte, port]
  rfl

theorem State.operandByte_portB (port : s.resolve m = .portB) :
    s.operandByte m = some s.portReadB := by
  rw [State.operandByte, port]
  rfl

end

end Sys2Proof.Machine
end

section
/-!
The statements on CLR, SET, SWAP and on bit instructions at a port.
-/
namespace Sys2Proof.Machine

/-- Settles O35: the four write no flag, so STATUS is a location like any other. -/
theorem clearSetAndSwapWriteNoFlag : Obligations.ClearSetAndSwapWriteNoFlag := by
  refine fun s m => ⟨fun writable => ⟨?clr, ?set⟩, fun v read => ?swaps⟩
  case clr => exact writesByte_value_unflagged (fun _ => 0x00#8) writable rfl
  case set => exact writesByte_value_unflagged (fun _ => 0xFF#8) writable rfl
  case swaps =>
    rw [← swapNibbles_eq]
    exact ⟨operandToAcc_unflagged (fun _ w => swapNibbles w) read, fun writable =>
      writesByte_unflagged (fun _ w => swapNibbles w) read writable rfl⟩

/-- Settles O34: the latch takes the port as it was read, with the one bit changed. -/
theorem bitInstructionOnPortCopiesPadsIntoTheLatch :
    Obligations.BitInstructionOnPortCopiesPadsIntoTheLatch := by
  rintro s m i v _ rfl
  refine ⟨fun port => ?portA, fun port => ?portB⟩
  case portA =>
    rw [exec_bitInstruction v i (State.operandByte_portA port), port, s.startInstr_eq]
    refine ⟨_, rfl, rfl, fun k hk => ?_⟩
    rw [← s.portReadA_getLsbD hk]
    exact putBit_getLsbD v s.portReadA i hk
  case portB =>
    rw [exec_bitInstruction v i (State.operandByte_portB port), port, s.startInstr_eq]
    refine ⟨_, rfl, rfl, fun k hk => ?_⟩
    rw [← s.portReadB_getLsbD hk, BitVec.getLsbD_setWidth, decide_eq_true hk, Bool.true_and]
    exact putBit_getLsbD v s.portReadB i (Nat.lt_trans hk (by decide))

end Sys2Proof.Machine
end

section
/-!
SUPPORT. The clear instructions by their two options (R243 to R245, R250, D16).
-/
namespace Sys2Proof.Machine

section
variable {s : State}

/-- A completed clear, where the watchdog is enabled (R271). -/
theorem State.serviceWatchdog_of_enabled (enabled : s.params.options.wdtEnable = true) :
    s.serviceWatchdog = { s with wdt := 0, wsChanged := false, tout := false, pdf := false } :=
  if_pos enabled

/-- A completed clear, where it is disabled: there is no count to clear (R250). -/
theorem State.serviceWatchdog_of_disabled (disabled : s.params.options.wdtEnable = false) :
    s.serviceWatchdog = { s with tout := false, pdf := false } :=
  if_neg (Bool.eq_false_iff.mp disabled)

theorem State.hearsClear_of_enabled (enabled : s.params.options.wdtEnable = true) :
    s.hearsClear = true := by
  simp [State.hearsClear, enabled]

theorem State.hearsClear_of_disabled (disabled : s.params.options.wdtEnable = false) :
    s.hearsClear = s.params.wdtDisClrFlags := by
  simp [State.hearsClear, disabled]

/-- With a disabled watchdog no cycle counts (R268). -/
theorem State.startInstr_of_disabled (disabled : s.params.options.wdtEnable = false) (n : Nat) :
    s.startInstr n = { s with pc := s.pc + 1#10 } := by
  rw [s.startInstr_eq, State.clocked_of_disabled disabled]

/-- Clear instructions that the chip does not hear do nothing (R250). -/
theorem exec_clears_of_deaf (deaf : s.hearsClear = false) :
    exec .clrWdt s = .next (s.startInstr 1) ∧ exec .clrWdt1 s = .next (s.startInstr 1) ∧
      exec .clrWdt2 s = .next (s.startInstr 1) := by
  have deaf' : (s.startInstr 1).hearsClear = false := deaf
  simp [exec, execClrWdt, execClrWdt1, execClrWdt2, deaf']

/-- Under the one-instruction option CLR WDT clears and the other two do nothing. -/
theorem exec_clears_of_one (hears : s.hearsClear = true)
    (one : s.params.options.clrWdtTimes = .one) :
    exec .clrWdt s = .next (s.startInstr 1).serviceWatchdog ∧
      exec .clrWdt1 s = .next (s.startInstr 1) ∧ exec .clrWdt2 s = .next (s.startInstr 1) := by
  have hears' : (s.startInstr 1).hearsClear = true := hears
  simp [exec, execClrWdt, execClrWdt1, execClrWdt2, hears', one]

/-- Under the two-instruction option CLR WDT does nothing; of the other two the second clears, and clears the
marks, and the first leaves its mark (D16). -/
theorem exec_clears_of_two (hears : s.hearsClear = true)
    (two : s.params.options.clrWdtTimes = .two) :
    exec .clrWdt s = .next (s.startInstr 1) ∧
      exec .clrWdt1 s = .next (if s.wf2 = true then
        { (s.startInstr 1).serviceWatchdog with wf1 := false, wf2 := false }
        else { s.startInstr 1 with wf1 := true }) ∧
      exec .clrWdt2 s = .next (if s.wf1 = true then
        { (s.startInstr 1).serviceWatchdog with wf1 := false, wf2 := false }
        else { s.startInstr 1 with wf2 := true }) := by
  have hears' : (s.startInstr 1).hearsClear = true := hears
  simp [exec, execClrWdt, execClrWdt1, execClrWdt2, hears', two, apply_ite]

end

end Sys2Proof.Machine
end

section
/-!
The statements on the system instructions.
-/
namespace Sys2Proof.Machine

/-- Settles O42: NOP is the start of an instruction and no more, JMP the same and its jump. -/
theorem nopAndJumpChangeOnlyTheProgramCounter : Obligations.NopAndJumpChangeOnlyTheProgramCounter := by
  intro s addr
  have jump : (s.startInstr 2).jumpTo addr = s.transferTo addr :=
    congrArg (State.jumpTo addr) (s.startInstr_eq 2)
  exact ⟨congrArg _ (s.startInstr_eq 1), congrArg _ jump⟩

/-- Settles O43: an enabled watchdog hears its clear instructions, and a completed clear reaches the count. -/
theorem clearInstructionsOfAnEnabledWatchdog : Obligations.ClearInstructionsOfAnEnabledWatchdog := by
  rintro s _ enabled rfl
  have hears := State.hearsClear_of_enabled enabled
  have service := State.serviceWatchdog_of_enabled (s := s.startInstr 1) enabled
  rw [← s.startInstr_eq]
  refine ⟨fun one => ?one, fun two => ?two⟩
  case one =>
    rw [← service]
    exact exec_clears_of_one hears one
  case two =>
    have both := exec_clears_of_two hears two
    rwa [service] at both

/-- Settles O44: a disabled one hears them only under `WDTDIS_CLR_FLAGS`, and a completed clear reaches the flags
alone. -/
theorem clearInstructionsOfADisabledWatchdog : Obligations.ClearInstructionsOfADisabledWatchdog := by
  rintro s _ _ disabled rfl rfl
  have hears := State.hearsClear_of_disabled disabled
  have service := State.serviceWatchdog_of_disabled (s := s.startInstr 1) disabled
  rw [← State.startInstr_of_disabled disabled 1]
  refine ⟨fun off => exec_clears_of_deaf (hears.trans off), fun on => ⟨fun one => ?one, fun two => ?two⟩⟩
  case one =>
    rw [← service]
    exact exec_clears_of_one (hears.trans on) one
  case two =>
    have both := exec_clears_of_two (hears.trans on) two
    rwa [service] at both

/-- Settles O45: the marks are those drawn. -/
theorem haltStopsTheCoreAtTheNextInstruction : Obligations.HaltStopsTheCoreAtTheNextInstruction :=
  fun s => ⟨Config.wf1Draw s.drawIndex, Config.wf2Draw s.drawIndex, rfl⟩

end Sys2Proof.Machine
end

section
/-!
SUPPORT. The cycles an instruction takes, as clocks of the watchdog (R320, R269), by its effect.
-/
namespace Sys2Proof.Machine

/-! ## Cycles -/

theorem State.clocked_zero (s : State) : s.clocked 0 = s.wdt :=
  ite_self _

/-- Cycles are no clocks of a watchdog on its oscillator (R269). -/
theorem State.clocked_of_osc {s : State} (osc : s.params.options.wdtClk = .wdtOsc) (n : Nat) :
    s.clocked n = s.wdt := by
  simp [State.clocked, osc]

/-- From `s` to `t` pass `n` instruction cycles: they are counted where they clock the watchdog (R320), and
which clock that is stays. -/
structure TakesCycles (n : Nat) (s t : State) : Prop where
  wdt : t.wdt = s.clocked n
  params : t.params = s.params

theorem TakesCycles.zero {s t : State} (wdt : t.wdt = s.wdt) (params : t.params = s.params) :
    TakesCycles 0 s t :=
  ⟨wdt.trans s.clocked_zero.symm, params⟩

theorem TakesCycles.of_eq {n : Nat} {s t u : State} (h : TakesCycles n s t) (wdt : u.wdt = t.wdt)
    (params : u.params = t.params) : TakesCycles n s u :=
  ⟨wdt.trans h.wdt, params.trans h.params⟩

theorem TakesCycles.trans {n k : Nat} {s t u : State} (h : TakesCycles n s t)
    (h' : TakesCycles k t u) : TakesCycles (n + k) s u where
  wdt := by
    rw [h'.wdt, ← s.clocked_startInstr n k]
    simp only [State.clocked, h.wdt, h.params, State.startInstr_wdt, State.startInstr_params,
      State.countCycles_wdt]
  params := h'.params.trans h.params

theorem State.startInstr_takesCycles (n : Nat) (s : State) : TakesCycles n s (s.startInstr n) :=
  ⟨s.countCycles_wdt n, rfl⟩

theorem State.skipIf_takesCycles (b : Bool) (s : State) : TakesCycles b.toNat s (s.skipIf b) := by
  cases b with
  | false => exact .zero rfl rfl
  | true => exact ⟨s.countCycles_wdt 1, rfl⟩

/-- Only a write of PCL takes a cycle of its own (R320 note (1)). -/
theorem State.writeLoc_takesCycles {l : Loc} {v : Byte} {s t : State}
    (h : s.writeLoc l v = .next t) : TakesCycles (if l = .pcl then 1 else 0) s t := by
  rcases State.writeLoc_next h with ⟨rfl, rfl⟩ | ⟨rfl, rfl⟩ | ⟨rfl, rfl⟩ | ⟨rfl, -, rfl⟩ | ⟨rfl, rfl⟩ |
    ⟨rfl, rfl⟩ | ⟨rfl, rfl⟩ | ⟨rfl, rfl⟩ | ⟨rfl, rfl⟩ | ⟨rfl, rfl⟩ | ⟨rfl, rfl⟩ | ⟨_, rfl, rfl⟩
  case inr.inr.inr.inl => exact ⟨s.countCycles_wdt 1, rfl⟩
  all_goals exact .zero rfl rfl

/-! ## The cycles of an instruction -/

/-- The cycles of an instruction that leads from `s` to `t` (R320): its base count, one more for a skip taken,
one more for a PCL written. -/
def cyclesTaken (i : Instr) (s t : State) : Nat :=
  baseCycles i + (if isSkip i = true ∧ t.pc = s.pc + 2#10 then 1 else 0) +
    (if ∃ m, memoryDestination i = some m ∧ s.resolve m = .pcl then 1 else 0)

section
variable {i : Instr} {m : DataAddr} {n : Nat} {s t : State}

theorem cyclesTaken_of_no_destination (traits : Traits i none false n) : cyclesTaken i s t = n := by
  simp [cyclesTaken, traits.dest, traits.skips, traits.cycles]

theorem cyclesTaken_of_destination (traits : Traits i (some m) false n) :
    cyclesTaken i s t = n + if s.resolve m = .pcl then 1 else 0 := by
  simp [cyclesTaken, traits.dest, traits.skips, traits.cycles]

/-- Of the address after the instruction a skip makes the one two on, and of nothing else. -/
theorem cyclesTaken_of_skip {u : State} {dest : Option DataAddr} (b : Bool)
    (traits : Traits i dest true 1) (notPcl : ∀ m, dest = some m → s.resolve m ≠ .pcl)
    (next : u.pc = s.pc + 1#10) : cyclesTaken i s (u.skipIf b) = 1 + b.toNat := by
  have written : ¬∃ m, memoryDestination i = some m ∧ s.resolve m = .pcl := fun ⟨m, hm, pcl⟩ =>
    notPcl m (traits.dest ▸ hm) pcl
  have two : (u.skipIf b).pc = s.pc + 2#10 ↔ b = true := by
    cases b with
    | false => exact iff_of_false (next.trans_ne (by bv_omega)) nofun
    | true => exact iff_of_true ((congrArg (· + 1#10) next).trans (progAddr_add_one_add_one s.pc)) rfl
  simp only [cyclesTaken, traits.skips, traits.cycles, two, true_and, if_neg written]
  cases b <;> rfl

end

theorem DataEffect.takesCycles {i : Instr} {s t : State} (d : DataEffect i s t) :
    TakesCycles (cyclesTaken i s t) s t := by
  have started := s.startInstr_takesCycles 1
  cases d with
  | toAcc o traits =>
    rw [cyclesTaken_of_no_destination traits]
    exact started.of_eq rfl rfl
  | toMem o traits _ put =>
    obtain ⟨u, write, rfl⟩ := State.putLoc_next put
    rw [cyclesTaken_of_destination traits]
    exact (started.trans (State.writeLoc_takesCycles write)).of_eq rfl rfl
  | skip b traits =>
    rw [cyclesTaken_of_skip b traits nofun rfl]
    exact started.trans (State.skipIf_takesCycles b _)
  | skipAcc v b traits =>
    rw [cyclesTaken_of_skip b traits nofun rfl]
    exact (started.of_eq (u := (s.startInstr 1).setAcc v) rfl rfl).trans (State.skipIf_takesCycles b _)
  | skipMem v b traits notPcl write =>
    have written := State.writeLoc_takesCycles write
    rw [if_neg notPcl] at written
    rw [cyclesTaken_of_skip b traits (fun _ hm => Option.some.inj hm ▸ notPcl)
      (State.writeLoc_pc_of_ne notPcl write)]
    exact (started.trans written).trans (State.skipIf_takesCycles b _)
  | nop =>
    rw [cyclesTaken_of_no_destination (n := 1) ⟨rfl, rfl, rfl⟩]
    exact started
  | jmp a =>
    rw [cyclesTaken_of_no_destination (n := 2) ⟨rfl, rfl, rfl⟩]
    exact (s.startInstr_takesCycles 2).of_eq rfl rfl

/-- An instruction takes its cycles, or it is a clear instruction or HALT and clears an enabled watchdog. -/
theorem Effect.takesCycles_or_clears {i : Instr} {s t : State} (e : Effect i s t) :
    TakesCycles (cyclesTaken i s t) s t ∨
      (flagRow i = .power ∧ (s.params.options.wdtEnable = true → t.wdt = 0)) := by
  cases e with
  | data d => exact .inl d.takesCycles
  | table lo hi traits _ write =>
    rw [cyclesTaken_of_destination traits]
    exact .inl (((s.startInstr_takesCycles 2).trans (State.writeLoc_takesCycles write)).of_eq rfl rfl)
  | call | ret | retA | reti =>
    rw [cyclesTaken_of_no_destination (n := 2) ⟨rfl, rfl, rfl⟩]
    exact .inl ((s.startInstr_takesCycles 2).of_eq rfl rfl)
  | marks _ _ _ traits =>
    rw [cyclesTaken_of_no_destination traits]
    exact .inl ((s.startInstr_takesCycles 1).of_eq rfl rfl)
  | clears _ _ power =>
    exact .inr ⟨power, fun enabled => by simp [State.serviceWatchdog, enabled]⟩
  | halt => exact .inr ⟨rfl, fun _ => rfl⟩

end Sys2Proof.Machine
end

section
/-!
The statement on cycles.
-/
namespace Sys2Proof.Machine

/-- Settles O50: outside the clear instructions and HALT every effect takes the cycles of its kind. -/
theorem cyclesAdvanceTheWatchdog : Obligations.CyclesAdvanceTheWatchdog := by
  intro i s t h notPower
  have takes := (exec_effect h).takesCycles_or_clears.resolve_right fun ⟨power, _⟩ => notPower power
  exact takes.wdt

end Sys2Proof.Machine
end

section
/-!
SUPPORT. What the resets leave (R43, R272, R301, R303), said once for all of them.
-/
namespace Sys2Proof.Machine

/-- The part of the state that every chip reset brings to a stated value (R43, R303). -/
structure State.ChipInitialised (t : State) : Prop where
  pc : t.pc = 0x000#10
  sp : t.sp = 0
  mode : t.mode = .run
  wdts : t.wdts = 0x07#8
  pa : t.pa = 0xFF#8
  pac : t.pac = 0xFF#8
  pb : t.pb = 0b111#3
  pbc : t.pbc = 0b111#3
  wdt : t.wdt = 0

/-- `t` has the data registers of `s` and the flags C, AC, Z and OV. -/
structure KeepsData (s t : State) : Prop where
  acc : t.acc = s.acc
  mp : t.mp = s.mp
  tblp : t.tblp = s.tblp
  tblh : t.tblh = s.tblh
  c : t.c = s.c
  ac : t.ac = s.ac
  z : t.z = s.z
  ov : t.ov = s.ov

/-- A reset of the powered chip touches the RAM by `ramThroughReset`, and nothing else by that. -/
theorem State.ramThroughReset_eq (s : State) : s.ramThroughReset =
    { s with ram := s.ramThroughReset.ram, ramEpoch := s.ramThroughReset.ramEpoch } := by
  unfold State.ramThroughReset
  split <;> rfl

theorem State.reset_chipInitialised : State.reset.ChipInitialised := by
  constructor <;> rfl

theorem State.powerOnReset_chipInitialised (s : State) : s.powerOnReset.ChipInitialised := by
  constructor <;> rfl

theorem State.resReset_chipInitialised (s : State) : s.resReset.ChipInitialised := by
  rw [State.resReset, State.ramThroughReset_eq]
  constructor <;> rfl

theorem State.resReset_keepsData (s : State) : KeepsData s s.resReset := by
  rw [State.resReset, State.ramThroughReset_eq]
  constructor <;> rfl

/-- The RAM survives a reset of the powered chip under the named assumption (D18). -/
theorem State.resReset_ramRead {s : State} (survives : s.params.ramSurvivesReset = true) (a : Nat) :
    s.resReset.ramRead a = s.ramRead a := by
  have kept : s.restart.initPorts.ramThroughReset = s.restart.initPorts := if_pos survives
  rw [State.resReset, kept]
  rfl

theorem State.timeoutReset_of_run {s : State} (running : s.mode = .run) :
    s.timeoutReset = { s.restart.initPorts.ramThroughReset with tout := true } := by
  simp only [State.timeoutReset, running]

theorem State.timeoutReset_of_halt {s : State} (halted : s.mode = .halt) :
    s.timeoutReset = { s.restart with tout := true } := by
  simp only [State.timeoutReset, halted]

theorem State.timeoutReset_chipInitialised {s : State} (running : s.mode = .run) :
    s.timeoutReset.ChipInitialised := by
  rw [State.timeoutReset_of_run running, State.ramThroughReset_eq]
  constructor <;> rfl

theorem State.timeoutReset_keepsData {s : State} (running : s.mode = .run) :
    KeepsData s s.timeoutReset := by
  rw [State.timeoutReset_of_run running, State.ramThroughReset_eq]
  constructor <;> rfl

/-- Every reset restarts at 000H with no return address and the watchdog cleared; a wake-up resets nothing
(R265, R275). -/
theorem takeEvent_restarts_or_wakes {e : Event} {s t : State} (h : takeEvent e s = .next t) :
    (t.pc = 0x000#10 ∧ t.wdt = 0 ∧ t.sp = 0) ∨ (e = .wakeA ∧ t = s.wakeUp) := by
  rcases takeEvent_next h with ⟨-, rfl⟩ | ⟨-, rfl⟩ | ⟨-, rfl⟩ | ⟨wake, rfl⟩
  · exact .inl ⟨rfl, rfl, rfl⟩
  · obtain ⟨pc, sp, -, -, -, -, -, -, wdt⟩ := s.resReset_chipInitialised
    exact .inl ⟨pc, wdt, sp⟩
  · unfold State.timeoutReset
    split <;> exact .inl (by simp)
  · exact .inr ⟨wake, rfl⟩

/-- Every reset but the warm one initialises the chip (R303). -/
theorem takeEvent_chipInitialised {e : Event} {s t : State} (h : takeEvent e s = .next t)
    (notWake : e ≠ .wakeA) (notWarm : e ≠ .wdtTimeout ∨ s.mode = .run) : t.ChipInitialised := by
  rcases takeEvent_next h with ⟨-, rfl⟩ | ⟨-, rfl⟩ | ⟨timeout, rfl⟩ | ⟨wake, -⟩
  · exact s.powerOnReset_chipInitialised
  · exact s.resReset_chipInitialised
  · exact State.timeoutReset_chipInitialised (notWarm.resolve_left (absurd timeout))
  · exact absurd wake notWake

end Sys2Proof.Machine
end

section
/-!
The statements on the resets.
-/
namespace Sys2Proof.Machine

/-- Settles O51: a power-on is a chip reset that clears TO and PDF, and `State.reset` is what one leaves. -/
theorem powerOnInitialisesTheMachine : Obligations.PowerOnInitialisesTheMachine := by
  refine ⟨?reset, fun s due => ⟨_, step_of_due due, ?powerOn⟩⟩
  case reset =>
    obtain ⟨pc, sp, mode, wdts, pa, pac, pb, pbc, wdt⟩ := State.reset_chipInitialised
    exact ⟨pc, sp, mode, rfl, rfl, wdts, pa, pac, pb, pbc, wdt⟩
  case powerOn =>
    obtain ⟨pc, sp, mode, wdts, pa, pac, pb, pbc, wdt⟩ := s.atBoundary.powerOnReset_chipInitialised
    exact ⟨pc, sp, mode, rfl, rfl, wdts, pa, pac, pb, pbc, wdt⟩

/-- Settles O52: a low supply with the LVR enabled is the same reset as a low RES pin. -/
theorem resResetKeepsTheDataRegisters : Obligations.ResResetKeepsTheDataRegisters := by
  intro s cause
  have reset : step s = .next s.atBoundary.resReset.passTime := by
    rcases cause with due | ⟨due, lvr⟩
    · rw [step_of_due due]; rfl
    · rw [step_of_due due, takeEvent, s.atBoundary_params, if_pos lvr, onNext_next]
  obtain ⟨pc, sp, mode, wdts, pa, pac, pb, pbc, wdt⟩ := s.atBoundary.resReset_chipInitialised
  obtain ⟨acc, mp, tblp, tblh, c, ac, z, ov⟩ := s.atBoundary.resReset_keepsData
  exact ⟨_, reset, pc, sp, mode, wdts, pa, pac, pb, pbc, wdt,
    fun halted => ⟨if_pos halted, if_pos halted⟩,
    fun running => ⟨if_neg (by simp [running]), if_neg (by simp [running])⟩,
    acc, mp, tblp, tblh, c, ac, z, ov, State.resReset_ramRead⟩

/-- Settles O53: a time-out in RUN mode initialises the chip and keeps the data registers. -/
theorem timeoutInRunModeIsAChipReset : Obligations.TimeoutInRunModeIsAChipReset := by
  intro s due running
  have running' : s.atBoundary.mode = .run := running
  obtain ⟨pc, sp, mode, wdts, pa, pac, pb, pbc, wdt⟩ := State.timeoutReset_chipInitialised running'
  obtain ⟨acc, mp, tblp, tblh, c, ac, z, ov⟩ := State.timeoutReset_keepsData running'
  obtain ⟨tout, pdf⟩ : s.atBoundary.timeoutReset.tout = true ∧ s.atBoundary.timeoutReset.pdf = s.pdf := by
    rw [State.timeoutReset_of_run running', State.ramThroughReset_eq]
    exact ⟨rfl, rfl⟩
  exact ⟨_, step_of_due due, pc, sp, mode, tout, pdf, wdts, pa, pac, pb, pbc, wdt,
    acc, mp, tblp, tblh, c, ac, z, ov⟩

/-- Settles O54: the warm reset is the part that every reset shares, and TO. -/
theorem timeoutInHaltModeIsAWarmReset : Obligations.TimeoutInHaltModeIsAWarmReset := by
  intro s due halted
  have halted' : s.atBoundary.mode = .halt := halted
  rw [step_of_due due, takeEvent, State.timeoutReset_of_halt halted', onNext_next]
  exact ⟨_, _, _, rfl⟩

/-- Settles O55: every reset restarts, and all but the warm one initialise the ports. -/
theorem chipResetsLeaveTheFunctionalUnitsInitialised :
    Obligations.ChipResetsLeaveTheFunctionalUnitsInitialised := by
  intro s t e due notWake h
  rw [step_of_due due] at h
  obtain ⟨u, he, rfl⟩ := onNext_eq_next.mp h
  obtain ⟨pc, wdt, sp⟩ := (takeEvent_restarts_or_wakes he).resolve_right fun wake => notWake wake.1
  refine ⟨pc, wdt, sp, fun notWarm => ?chip, fun timeout halted => ?warm⟩
  case chip =>
    obtain ⟨-, -, -, -, pa, pac, pb, pbc, -⟩ := takeEvent_chipInitialised he notWake notWarm
    exact ⟨pac, pbc, pa, pb⟩
  case warm =>
    subst timeout
    have halted' : s.atBoundary.mode = .halt := halted
    rw [takeEvent, State.timeoutReset_of_halt halted'] at he
    cases he
    exact ⟨rfl, rfl, rfl, rfl⟩

end Sys2Proof.Machine
end

section
/-!
SUPPORT. Which event acts at a boundary (R264): what a pending event says of the input, and which one an input
brings; the window of the time-out (R270) and the wake-up lines (R275).
-/
namespace Sys2Proof.Machine

/-! ## The wake-up lines -/

/-- The conjunction of three words is not zero exactly when they share a bit. -/
theorem and_and_ne_zero_iff {w : Nat} (x y z : BitVec w) :
    x &&& y &&& z ≠ 0#w ↔
      ∃ i < w, x.getLsbD i = true ∧ y.getLsbD i = true ∧ z.getLsbD i = true := by
  constructor
  · intro ne
    by_contra none
    refine ne (BitVec.eq_of_getLsbD_eq fun i hi => ?_)
    have notAll : ¬(x &&& y &&& z).getLsbD i = true := fun bit =>
      none ⟨i, hi, by simpa [and_assoc] using bit⟩
    simpa using notAll
  · rintro ⟨i, -, hx, hy, hz⟩ zero
    have bit := congrArg (BitVec.getLsbD · i) zero
    simp [hx, hy, hz] at bit

/-- A halted core is woken by a falling edge on some enabled input line (R275, D34). -/
theorem State.wakes_iff {inp : Input} {s : State} : s.wakes inp = true ↔
    s.mode = .halt ∧ ∃ i < 8, inp.fallA.getLsbD i = true ∧
      s.params.options.paWake.getLsbD i = true ∧ s.pac.getLsbD i = true := by
  rw [← and_and_ne_zero_iff]
  simp [State.wakes]

/-- Without an edge nothing wakes. -/
theorem State.wakes_of_no_edge {inp : Input} {s : State} (noEdge : inp.fallA = 0#8) :
    s.wakes inp = false := by
  simp [State.wakes, noEdge]

/-! ## The time-out (R270) -/

@[simp] theorem State.atBoundary_wdts (s : State) : s.atBoundary.wdts = s.wdts := rfl
@[simp] theorem State.atBoundary_wsChanged (s : State) : s.atBoundary.wsChanged = s.wsChanged := rfl

theorem State.wdtRatio_eq (s : State) : s.wdtRatio = 2 ^ (s.wdts.toNat % 8) := by
  rw [State.wdtRatio, BitVec.toNat_setWidth]

/-- The ratio is between 1 and 128. -/
theorem State.wdtRatio_bounds (s : State) : 1 ≤ s.wdtRatio ∧ s.wdtRatio ≤ 128 := by
  have exponent : s.wdts.toNat % 8 ≤ 7 := by omega
  rw [State.wdtRatio_eq]
  exact ⟨Nat.one_le_two_pow, Nat.pow_le_pow_right (by decide) exponent⟩

theorem State.wdtEarliest_bound (s : State) : 255 ≤ s.wdtEarliest := by
  have ratio := s.wdtRatio_bounds
  unfold State.wdtEarliest
  split <;> omega

theorem State.wdtEarliest_le_wdtLatest (s : State) : s.wdtEarliest ≤ s.wdtLatest := by
  unfold State.wdtEarliest State.wdtLatest
  split <;> omega

theorem State.wdtLatest_bound (s : State) : s.wdtLatest ≤ 512 * 128 + 1 := by
  have ratio := s.wdtRatio_bounds
  unfold State.wdtLatest
  split <;> omega

/-- What a due time-out needs, whatever the environment's choice. -/
theorem State.of_wdtDue {fire : Bool} {s : State} (due : s.wdtDue fire = true) :
    s.params.options.wdtEnable = true ∧ (s.mode = .run ∨ s.params.options.wdtClk = .wdtOsc) ∧
      s.wdtEarliest ≤ s.wdt := by
  simp only [State.wdtDue, Bool.and_eq_true, Bool.or_eq_true, decide_eq_true_eq] at due
  obtain ⟨⟨enabled, clocked⟩, late | ⟨-, early⟩⟩ := due
  · exact ⟨enabled, clocked, s.wdtEarliest_le_wdtLatest.trans late⟩
  · exact ⟨enabled, clocked, early⟩

/-- At the end of its window a time-out is due, whatever the environment's choice. -/
theorem State.wdtDue_of_latest {s : State} (fire : Bool) (enabled : s.params.options.wdtEnable = true)
    (clocked : s.mode = .run ∨ s.params.options.wdtClk = .wdtOsc) (late : s.wdtLatest ≤ s.wdt) :
    s.wdtDue fire = true := by
  simp only [State.wdtDue, Bool.and_eq_true, Bool.or_eq_true, decide_eq_true_eq]
  exact ⟨⟨enabled, clocked⟩, .inl late⟩

/-! ## The event that acts (R264) -/

/-- What the event that acts says of the input. -/
theorem State.pendingEvent_some {inp : Input} {s : State} {e : Event}
    (h : s.pendingEvent inp = some e) :
    (e = .powerOn ∧ inp.powerOn = true) ∨ (e = .lowVoltage ∧ inp.lowVoltage = true) ∨
    (e = .resLow ∧ inp.resLow = true) ∨ (e = .wakeA ∧ s.wakes inp = true) ∨
    (e = .wdtTimeout ∧ s.wdtDue inp.wdtFire = true) := by
  unfold State.pendingEvent at h
  split_ifs at h with powerOn lowVoltage resLow wake timeout <;> cases h
  · exact .inl ⟨rfl, powerOn⟩
  · exact .inr (.inl ⟨rfl, lowVoltage⟩)
  · exact .inr (.inr (.inl ⟨rfl, resLow⟩))
  · exact .inr (.inr (.inr (.inl ⟨rfl, (Bool.and_eq_true _ _ ▸ wake).1⟩)))
  · exact .inr (.inr (.inr (.inr ⟨rfl, timeout⟩)))

theorem State.wakes_of_pendingEvent {inp : Input} {s : State}
    (h : s.pendingEvent inp = some .wakeA) : s.wakes inp = true := by
  simpa using State.pendingEvent_some h

theorem State.wdtDue_of_pendingEvent {inp : Input} {s : State}
    (h : s.pendingEvent inp = some .wdtTimeout) : s.wdtDue inp.wdtFire = true := by
  simpa using State.pendingEvent_some h

/-- A due time-out acts, or another event in its place. -/
theorem State.pendingEvent_isSome_of_wdtDue {inp : Input} {s : State}
    (due : s.wdtDue inp.wdtFire = true) : ∃ e, s.pendingEvent inp = some e := by
  unfold State.pendingEvent
  simp only [due, if_true]
  split_ifs <;> exact ⟨_, rfl⟩

/-- An input that asks for no reset. -/
structure AsksNoReset (inp : Input) : Prop where
  powerOn : inp.powerOn = false
  lowVoltage : inp.lowVoltage = false
  resLow : inp.resLow = false

section
variable {inp : Input} {s : State}

theorem State.pendingEvent_of_powerOn (powerOn : inp.powerOn = true) :
    s.pendingEvent inp = some .powerOn :=
  if_pos powerOn

theorem State.pendingEvent_of_lowVoltage (powerOn : inp.powerOn = false)
    (lowVoltage : inp.lowVoltage = true) : s.pendingEvent inp = some .lowVoltage := by
  simp [State.pendingEvent, powerOn, lowVoltage]

theorem State.pendingEvent_of_resLow (powerOn : inp.powerOn = false)
    (lowVoltage : inp.lowVoltage = false) (resLow : inp.resLow = true) :
    s.pendingEvent inp = some .resLow := by
  simp [State.pendingEvent, powerOn, lowVoltage, resLow]

/-- A wake-up acts when no time-out comes before it. -/
theorem State.pendingEvent_of_wakes (noReset : AsksNoReset inp) (wakes : s.wakes inp = true)
    (first : inp.wakeFirst = true ∨ s.wdtDue inp.wdtFire = false) :
    s.pendingEvent inp = some .wakeA := by
  obtain ⟨powerOn, lowVoltage, resLow⟩ := noReset
  rcases first with first | first <;>
    simp [State.pendingEvent, powerOn, lowVoltage, resLow, wakes, first]

/-- A time-out acts when no wake-up comes before it. -/
theorem State.pendingEvent_of_wdtDue (noReset : AsksNoReset inp)
    (due : s.wdtDue inp.wdtFire = true) (first : inp.wakeFirst = false ∨ s.wakes inp = false) :
    s.pendingEvent inp = some .wdtTimeout := by
  obtain ⟨powerOn, lowVoltage, resLow⟩ := noReset
  rcases first with first | first <;>
    simp [State.pendingEvent, powerOn, lowVoltage, resLow, due, first]

end

end Sys2Proof.Machine
end

section
/-!
The statements on the events.
-/
namespace Sys2Proof.Machine

/-- Settles O56: the wake-up is the event that acts, and it changes the mode alone. -/
theorem portAEdgeWakesTheCore : Obligations.PortAEdgeWakesTheCore := by
  intro s i hi halted edge enabled input powerOn lowVoltage resLow first
  have wakes : s.atBoundary.wakes s.input = true :=
    State.wakes_iff.mpr ⟨halted, i, hi, edge, enabled, input⟩
  have due : s.dueEvent = some .wakeA :=
    State.pendingEvent_of_wakes ⟨powerOn, lowVoltage, resLow⟩ wakes first
  rw [step_of_due due]
  rfl

/-- Settles O57: neither an idle step nor, in HALT mode, an instruction is there to leave it. -/
theorem haltModeEndsOnlyByAnEvent : Obligations.HaltModeEndsOnlyByAnEvent := by
  intro s t halted h running
  rcases step_next h with ⟨e, u, due, he, -⟩ | ⟨-, -, rfl⟩ | ⟨-, -, -, running', -⟩
  · rcases State.pendingEvent_some due with ⟨-, powerOn⟩ | ⟨rfl, lowVoltage⟩ | ⟨-, resLow⟩ |
      ⟨-, wakes⟩ | ⟨rfl, -⟩
    · exact .inl powerOn
    · obtain ⟨lvr, -⟩ : s.params.options.lvrEnable = true ∧ u = s.atBoundary.resReset := by
        simpa using takeEvent_next he
      exact .inr (.inr (.inl ⟨lowVoltage, lvr⟩))
    · exact .inr (.inl resLow)
    · exact .inr (.inr (.inr (.inr (State.wakes_iff.mp wakes).2)))
    · exact .inr (.inr (.inr (.inl due)))
  · exact absurd (halted.symm.trans running) nofun
  · exact absurd (halted.symm.trans running') nofun

/-- Settles O58, down the chain of the events. -/
theorem resetsPrevailOverTimeoutAndWakeup : Obligations.ResetsPrevailOverTimeoutAndWakeup := by
  refine fun s => ⟨State.pendingEvent_of_powerOn, fun powerOn lowVoltage => ?lowVoltage,
    State.pendingEvent_of_resLow, fun powerOn lowVoltage resLow => ⟨fun wakes first => ?wake, ?timeout⟩⟩
  case lowVoltage =>
    have due : s.dueEvent = some .lowVoltage :=
      State.pendingEvent_of_lowVoltage powerOn lowVoltage
    refine ⟨due, fun disabled => ?_⟩
    rw [step_of_due due, takeEvent, s.atBoundary_params, if_neg (by simp [disabled]), onNext_refused]
  case wake => exact State.pendingEvent_of_wakes ⟨powerOn, lowVoltage, resLow⟩ wakes (.inl first)
  case timeout => exact State.pendingEvent_of_wdtDue ⟨powerOn, lowVoltage, resLow⟩

/-- Settles O59: no time-out is due before its window opens, and none is put off when it closes. -/
theorem timeoutsFallInTheirWindow : Obligations.TimeoutsFallInTheirWindow := by
  refine fun s => ⟨fun due => ?needs, fun enabled clocked late powerOn lowVoltage resLow noEdge => ?falls⟩
  case needs =>
    obtain ⟨enabled, clocked, earliest⟩ := State.of_wdtDue (State.wdtDue_of_pendingEvent due)
    refine ⟨enabled, fun halted => clocked.resolve_left ?_, fun unchanged => ?_,
      (State.wdtEarliest_bound _).trans earliest⟩
    · rw [s.atBoundary_mode, halted]; nofun
    · rw [State.wdtEarliest, s.atBoundary_wsChanged, unchanged, State.wdtRatio_eq, s.atBoundary_wdts] at earliest
      exact Nat.le_add_of_sub_le earliest
  case falls =>
    have latest : s.atBoundary.wdtLatest ≤ s.atBoundary.wdt := by
      rcases late with ⟨unchanged, late⟩ | late
      · rwa [State.wdtLatest, s.atBoundary_wsChanged, unchanged, State.wdtRatio_eq, s.atBoundary_wdts]
      · exact s.atBoundary.wdtLatest_bound.trans late
    exact State.pendingEvent_of_wdtDue ⟨powerOn, lowVoltage, resLow⟩
      (State.wdtDue_of_latest _ enabled clocked latest) (.inr (State.wakes_of_no_edge noEdge))

end Sys2Proof.Machine
end

section
/-!
SUPPORT. Runs: the inputs and arguments along them, the count of a watchdog on its oscillator, and why a run in
which no step clears that count does not go on for ever (R269, R270).
-/
namespace Sys2Proof.Machine

theorem andThen_eq_next {r : Result} {f : State → Result} {t : State} :
    andThen r f = .next t ↔ ∃ u, r = .next u ∧ f u = .next t := by
  cases r <;> simp

/-! ## The environment along a run -/

theorem Effect.keepsEnvironment {i : Instr} {s t : State} (e : Effect i s t) :
    t.env = s.env ∧ t.time = s.time := by
  cases e with
  | data d => exact ⟨d.keepsControl.env, d.keepsControl.time⟩
  | table _ _ _ _ write =>
    have k := State.writeLoc_keepsControl write
    exact ⟨k.env, k.time⟩
  | clears => simp
  | call | ret | retA | reti | marks | halt => exact ⟨rfl, rfl⟩

theorem takeEvent_keepsEnvironment {e : Event} {s t : State} (h : takeEvent e s = .next t) :
    t.env = s.env ∧ t.time = s.time := by
  rcases takeEvent_next h with ⟨-, rfl⟩ | ⟨-, rfl⟩ | ⟨-, rfl⟩ | ⟨-, rfl⟩
  · exact ⟨rfl, rfl⟩
  · simp [State.resReset]
  · unfold State.timeoutReset
    split <;> simp
  · exact ⟨rfl, rfl⟩

/-- Every step uses up one input (R41). -/
theorem step_environment {s t : State} (h : step s = .next t) :
    t.env = s.env.tail ∧ t.time = s.time + 1 := by
  have boundary : s.atBoundary.env = s.env ∧ s.atBoundary.time = s.time := ⟨rfl, rfl⟩
  rcases step_next h with ⟨e, u, -, he, rfl⟩ | ⟨-, -, rfl⟩ | ⟨i, u, -, -, -, hx, rfl⟩
  · simp [takeEvent_keepsEnvironment he, boundary]
  · exact ⟨rfl, rfl⟩
  · simp [(exec_effect hx).keepsEnvironment, boundary]

/-- After `k` steps the next input is the one that lay `k` steps on. -/
theorem runFor_input {s t : State} {k : Nat} (h : runFor k s = .next t) : t.input = s.inputAt k := by
  induction k generalizing s with
  | zero =>
    cases h
    exact t.input_eq_inputAt_zero
  | succ k ih =>
    rw [runFor_succ] at h
    obtain ⟨u, first, rest⟩ := andThen_eq_next.mp h
    obtain ⟨env, time⟩ := step_environment first
    rw [ih rest, State.inputAt_of_env_time env time]

/-- No run changes the arguments. -/
theorem runFor_params {s t : State} {n : Nat} (h : runFor n s = .next t) : t.params = s.params := by
  induction n generalizing t with
  | zero => cases h; rfl
  | succ n ih =>
    rw [runFor_succ'] at h
    obtain ⟨u, run, last⟩ := andThen_eq_next.mp h
    exact (noStepChangesProgramOrOptions u t last).2.trans (ih run)

/-! ## An enabled watchdog on its oscillator -/

/-- The watchdog is enabled and clocked by its oscillator (R269). -/
structure State.OscWatchdog (s : State) : Prop where
  enabled : s.params.options.wdtEnable = true
  osc : s.params.options.wdtClk = .wdtOsc

theorem State.OscWatchdog.of_params {s t : State} (w : s.OscWatchdog) (h : t.params = s.params) :
    t.OscWatchdog :=
  ⟨h ▸ w.enabled, h ▸ w.osc⟩

theorem State.OscWatchdog.atBoundary_wdt {s : State} (w : s.OscWatchdog) :
    s.atBoundary.wdt = s.wdt + s.input.oscTicks := by
  simp [State.atBoundary, State.countOscTicks, w.enabled, w.osc]

/-- A step leaves the count of the boundary or clears it. -/
theorem step_wdt {s t : State} (w : s.OscWatchdog) (h : step s = .next t) :
    t.wdt = s.atBoundary.wdt ∨ t.wdt = 0 := by
  rcases step_next h with ⟨e, u, -, he, rfl⟩ | ⟨-, -, rfl⟩ | ⟨i, u, -, -, -, hx, rfl⟩
  · rcases takeEvent_restarts_or_wakes he with ⟨-, cleared, -⟩ | ⟨-, rfl⟩
    · exact .inr cleared
    · exact .inl rfl
  · exact .inl rfl
  · rcases (exec_effect hx).takesCycles_or_clears with takes | ⟨-, clears⟩
    · exact .inl (takes.wdt.trans (State.clocked_of_osc (s := s.atBoundary) w.osc _))
    · exact .inr (clears w.enabled)

/-- At the end of the longest window (R270, D31) an event acts; if it leaves the count it is a wake-up. -/
theorem step_of_late {s t : State} (w : s.OscWatchdog) (late : 512 * 128 + 1 ≤ s.atBoundary.wdt)
    (h : step s = .next t) : t.wdt = 0 ∨ (s.mode = .halt ∧ t.mode = .run) := by
  have wdtDue : s.atBoundary.wdtDue s.input.wdtFire = true :=
    State.wdtDue_of_latest _ w.enabled (.inr w.osc) (s.atBoundary.wdtLatest_bound.trans late)
  obtain ⟨e, due⟩ := State.pendingEvent_isSome_of_wdtDue wdtDue
  rw [step_of_due due] at h
  obtain ⟨u, he, rfl⟩ := onNext_eq_next.mp h
  rcases takeEvent_restarts_or_wakes he with ⟨-, cleared, -⟩ | ⟨rfl, rfl⟩
  · exact .inl cleared
  · exact .inr ⟨(State.wakes_iff.mp (State.wakes_of_pendingEvent due)).1, rfl⟩

/-! ## A count that nothing clears -/

/-- The run from `s` never stops, and every step leaves the count of its boundary. -/
def CountsOn (s : State) : Prop :=
  ∀ n, ∃ t u, runFor n s = .next t ∧ step t = .next u ∧ u.wdt = t.atBoundary.wdt

/-- What never stops being added to grows beyond every bound. -/
theorem exists_ge_of_ticks {count ticks : Nat → Nat} (add : ∀ n, count (n + 1) = count n + ticks n)
    (fair : ∀ n, ∃ k, n ≤ k ∧ 0 < ticks k) (bound : Nat) : ∃ n, bound ≤ count n := by
  have mono : Monotone count := monotone_nat_of_le_succ fun n => by rw [add]; exact Nat.le_add_right _ _
  induction bound with
  | zero => exact ⟨0, Nat.zero_le _⟩
  | succ bound ih =>
    obtain ⟨n, reached⟩ := ih
    obtain ⟨k, later, tick⟩ := fair n
    have kept := mono later
    exact ⟨k + 1, by rw [add]; omega⟩

/-- Along such a run the count is the sum of the ticks, so it passes every bound (R269, D17). -/
theorem CountsOn.unbounded {s : State} (on : CountsOn s) (w : s.OscWatchdog) (bound : Nat) :
    ∃ n t, runFor n s = .next t ∧ bound ≤ t.wdt := by
  choose t u run next kept using on
  have succ (n : Nat) : t (n + 1) = u n := by
    have both := run (n + 1)
    rw [runFor_succ', run n, andThen_next, next n] at both
    exact (Host.Outcome.next.inj both).symm
  have add (n : Nat) : (t (n + 1)).wdt = (t n).wdt + (s.inputAt n).oscTicks := by
    rw [succ, kept, (w.of_params (runFor_params (run n))).atBoundary_wdt, runFor_input (run n)]
  obtain ⟨n, reached⟩ := exists_ge_of_ticks (count := fun n => (t n).wdt) add s.ticks_never_stop bound
  exact ⟨n, t n, run n, reached⟩

/-- A watchdog on its oscillator does not count on for ever: past the end of the longest window the next step can
only wake the core, and the one after that cannot even do so. -/
theorem State.OscWatchdog.not_countsOn {s : State} (w : s.OscWatchdog) : ¬CountsOn s := by
  intro on
  obtain ⟨n, t, run, late⟩ := on.unbounded w (512 * 128 + 1)
  have lateAfter {k : Nat} {x y : State} (run : runFor k s = .next x) (late : 512 * 128 + 1 ≤ x.wdt)
      (next : step x = .next y) (kept : y.wdt = x.atBoundary.wdt) :
      512 * 128 + 1 ≤ y.wdt ∧ x.mode = .halt ∧ y.mode = .run := by
    have wx := w.of_params (runFor_params run)
    have count := wx.atBoundary_wdt
    exact ⟨by omega, (step_of_late wx (by omega) next).resolve_left (by omega)⟩
  obtain ⟨x, u, run', next, kept⟩ := on n
  obtain rfl : t = x := by simpa using run.symm.trans run'
  obtain ⟨late', -, running⟩ := lateAfter run late next kept
  have runOn : runFor (n + 1) s = .next u := by rw [runFor_succ', run, andThen_next, next]
  obtain ⟨x, v, run'', next', kept'⟩ := on (n + 1)
  obtain rfl : u = x := by simpa using runOn.symm.trans run''
  obtain ⟨-, halted, -⟩ := lateAfter runOn late' next' kept'
  exact absurd (halted.symm.trans running) nofun

/-- A step from HALT mode meets a brown-out, starts the core, or idles and counts (R274, D24). -/
theorem step_of_halt {s : State} (halted : s.mode = .halt) :
    step s = .refused .brownOut ∨ ∃ t, step s = .next t ∧
      (t.mode = .run ∨ (t.mode = .halt ∧ t.wdt = s.atBoundary.wdt)) := by
  have act {e : Event} {t : State} (due : s.dueEvent = some e)
      (he : takeEvent e s.atBoundary = .next t) : ∃ t, step s = .next t ∧
        (t.mode = .run ∨ (t.mode = .halt ∧ t.wdt = s.atBoundary.wdt)) :=
    ⟨t.passTime, by rw [step_of_due due, he, onNext_next],
      .inl (t.passTime_mode.trans (takeEvent_mode he))⟩
  cases due : s.dueEvent with
  | none =>
    refine .inr ⟨s.atBoundary.passTime, ?_, .inr ⟨halted, rfl⟩⟩
    rw [step_of_not_due due, coreStep_of_halt (s.atBoundary_mode.trans halted), onNext_next]
  | some e =>
    cases e with
    | powerOn | resLow | wdtTimeout | wakeA => exact .inr (act due rfl)
    | lowVoltage =>
      cases lvr : s.params.options.lvrEnable with
      | true => exact .inr (act due (if_pos lvr))
      | false =>
        have refused : takeEvent .lowVoltage s.atBoundary = .refused .brownOut :=
          if_neg (by simp [lvr])
        exact .inl (by rw [step_of_due due, refused, onNext_refused])

/-- While the run goes on and no step clears a count, the watchdog counts on. -/
theorem countsOn_of_never_cleared {s : State} (w : s.OscWatchdog)
    (goesOn : ∀ n, ∃ t, runFor n s = .next t)
    (uncleared : ∀ n t u, runFor n s = .next t → step t = .next u → 0 < t.atBoundary.wdt →
      u.wdt ≠ 0) : CountsOn s := by
  intro n
  obtain ⟨u, run⟩ := goesOn (n + 1)
  rw [runFor_succ'] at run
  obtain ⟨t, run, next⟩ := andThen_eq_next.mp run
  refine ⟨t, u, run, next, ?_⟩
  rcases step_wdt (w.of_params (runFor_params run)) next with kept | cleared
  · exact kept
  · have none : t.atBoundary.wdt = 0 :=
      Nat.eq_zero_of_not_pos fun some => uncleared n t u run next some cleared
    exact cleared.trans none.symm

/-- While the core stays halted and meets no brown-out, the watchdog counts on. -/
theorem countsOn_of_halted {s : State} (halted : s.mode = .halt)
    (noBrownOut : ∀ n, runFor n s ≠ .refused .brownOut)
    (neverRuns : ∀ n t, runFor n s = .next t → t.mode ≠ .run) : CountsOn s := by
  have idles {n : Nat} {t : State} (run : runFor n s = .next t) (halted : t.mode = .halt) :
      ∃ u, step t = .next u ∧ u.mode = .halt ∧ u.wdt = t.atBoundary.wdt := by
    have after : runFor (n + 1) s = step t := by rw [runFor_succ', run, andThen_next]
    rcases step_of_halt halted with refused | ⟨u, next, running | idle⟩
    · exact absurd (after.trans refused) (noBrownOut _)
    · exact absurd running (neverRuns _ u (after.trans next))
    · exact ⟨u, next, idle⟩
  have stays (n : Nat) : ∃ t, runFor n s = .next t ∧ t.mode = .halt := by
    induction n with
    | zero => exact ⟨s, rfl, halted⟩
    | succ n ih =>
      obtain ⟨t, run, halted⟩ := ih
      obtain ⟨u, next, halted', -⟩ := idles run halted
      exact ⟨u, by rw [runFor_succ', run, andThen_next, next], halted'⟩
  intro n
  obtain ⟨t, run, halted⟩ := stays n
  obtain ⟨u, next, -, kept⟩ := idles run halted
  exact ⟨t, u, run, next, kept⟩

end Sys2Proof.Machine
end

section
/-!
The statement on a watchdog on its oscillator.
-/
namespace Sys2Proof.Machine

/-- Settles O60: the ticks never stop, every step takes the next input, and a watchdog on its oscillator does not
count on for ever. -/
theorem oscillatorWatchdogCountsUntilClearedOrTheRunStops :
    Obligations.OscillatorWatchdogCountsUntilClearedOrTheRunStops := by
  refine ⟨State.ticks_never_stop, fun s t k => runFor_input, fun s enabled osc =>
    ⟨by_contra fun never => ?cleared, fun halted => by_contra fun never => ?wakes⟩⟩
  case cleared =>
    simp only [not_exists, not_or, not_and, not_forall, not_not] at never
    exact State.OscWatchdog.not_countsOn ⟨enabled, osc⟩ (countsOn_of_never_cleared ⟨enabled, osc⟩
      (fun n => (never n).1) fun n => (never n).2)
  case wakes =>
    simp only [not_exists, not_or, not_and] at never
    exact State.OscWatchdog.not_countsOn ⟨enabled, osc⟩ (countsOn_of_halted halted
      (fun n => (never n).1) fun n => (never n).2)

end Sys2Proof.Machine
end
